-- ==== Sys2Proof/Word.lean ====
section
/-! DEFINITION. The byte of every space and field (00_scope R14: an unsigned 8-bit value). -/

namespace Sys2Proof

/-- A byte, 0..255 (R14). -/
abbrev Byte := BitVec 8

end Sys2Proof
end

