-- ==== Sys2Proof/Config.lean ====
section
/-! DEFINITION. The parameters of 00_scope R12, the encoder policy, and the free values: constants with no body, of which nothing can be
proved. -/

namespace Sys2Proof

/-- `ENCODER_POLICY` (00_scope R12, 92_eei_decisions D21): which encoder outputs the machine may give. -/
inductive EncoderPolicy where
  /-- The algorithms of 42_mode3_encode and 44_mode2_encode. -/
  | reference
  /-- Any output that meets the conformance rules R236 and R313. -/
  | anyConforming
deriving DecidableEq, Repr

/-- `M3_SEGMENT_SIZE` (R12). -/
def Config.m3SegmentSize : Nat := 0x40000
/-- `M3_TYPE_COMPRESSED` (R12). -/
def Config.m3TypeCompressed : BitVec 32 := 8
/-- `M3_STORED_TYPE` (R12, D5). DESIGN CHOICE of the spec, log 13. -/
def Config.m3StoredType : BitVec 32 := 0
/-- `M3_RAW_MAX` (R12). -/
def Config.m3RawMax : Nat := 2
/-- `M3_RUN_MAX` (R12). -/
def Config.m3RunMax : Nat := 255
/-- `M3_DIST_MAX` (R12): the longest distance an M3_REF can spell. -/
def Config.m3DistMax : Nat := 256
/-- `M3_FLAG_WORD` (R12). -/
def Config.m3FlagWord : BitVec 32 := 0x80000001
/-- `M2_CHUNK_SIZE` (R12). -/
def Config.m2ChunkSize : Nat := 0x7FF0
/-- `M2_SCRATCH` (R12). -/
def Config.m2Scratch : Nat := 65536
/-- `M2_WINDOW` (R12). -/
def Config.m2Window : Nat := 0x1FFF
/-- `M2_CHAIN` (R12). -/
def Config.m2Chain : Nat := 0x2000
/-- `M2_MATCH_MAX` (R12). -/
def Config.m2MatchMax : Nat := 267
/-- `M2_RUN_MAX` (R12). -/
def Config.m2RunMax : Nat := 0xFFE
/-- `M2_RUN_MIN` (R12). -/
def Config.m2RunMin : Nat := 14
/-- `M2_OUT_LIMIT` (R12). -/
def Config.m2OutLimit : Nat := 0xFFFF

/-- Free value (log 4, log 16): the bytes of OUT after an error or a power-on reset (10_state R44, R45). -/
opaque Config.freeOut : Nat → List Byte
/-- Free value (log 4): OUTLEN after an error (R45), and OUTLEN of a result of 2^64 bytes or more (log 9). -/
opaque Config.freeOutlen : Nat → BitVec 64
/-- Free value (log 4, log 8, log 9, log 16): SP where the spec gives it no value (R31, R45). -/
opaque Config.freeSp : Nat → BitVec 64
/-- Free value (log 16): the bytes of IN after a power-on reset (R44). -/
opaque Config.freeIn : Nat → List Byte
/-- Free value (log 7): `A` at the start of a segment (R34). -/
opaque Config.freeA : Nat → Byte
/-- Free value (log 7): `B` at the start of a segment (R34). -/
opaque Config.freeB : Nat → Byte
/-- Free value (log 7): `LO` at the start of a chunk (R36). -/
opaque Config.freeLo : Nat → Byte
/-- Free value (log 7): `BR` at the start of a chunk (R36). -/
opaque Config.freeBr : Nat → BitVec 1
/-- Free value (log 7): `DIST` at the start of a chunk (R36). -/
opaque Config.freeDist : Nat → BitVec 13
/-- Free value (log 7): `RLEN` at the start of an encoder's chunk (R39). -/
opaque Config.freeRlen : Nat → Nat
/-- Free value (log 7): `BL` at the start of an encoder's chunk (R39). -/
opaque Config.freeBl : Nat → Nat
/-- Free value (log 7): `BD` at the start of an encoder's chunk (R39). -/
opaque Config.freeBd : Nat → Nat
/-- Free value (log 10): the payload a mode-3 encoder proposes for a segment under ANY_CONFORMING (R236). -/
opaque Config.freeM3Payload : Nat → List Byte → List Byte
/-- Free value (log 10): the payload a mode-2 encoder proposes for a chunk under ANY_CONFORMING (R313). -/
opaque Config.freeM2Payload : Nat → List Byte → List Byte

end Sys2Proof
end

