-- ==== Sys2Proof/Syntax.lean ====
section
/-! DEFINITION. The items a compressed stream is made of, the places a decoder reads from, and the instructions: one constructor per row
of spec/opcode_table.json. -/

namespace Sys2Proof

/-- One unit of a stream, as 30_encoding R100 writes tokens: a flag bit (F) or a whole byte (B). -/
inductive Item where
  /-- A flag bit, taken from the flag-bit reader (R106). -/
  | flag (b : Bool)
  /-- A byte of the byte stream. -/
  | byte (v : Byte)
deriving DecidableEq, Repr

/-- Where in a stream the decoder stands: the same bits mean different instructions in different places, and nothing inside the
stream says which (30_encoding R100, R124). -/
inductive Ctx where
  /-- At `SP`, at the start of a container (R120, R122). -/
  | container
  /-- At `SP`, at a mode-3 block record (R121). -/
  | m3Record
  /-- In SEG at `IP`, at a mode-3 token (R101). -/
  | m3Token
  /-- In SUB, at a mode-2 chunk record (R123). -/
  | m2Chunk
  /-- In CHUNK at index 0 (R105). -/
  | m2Start
  /-- In CHUNK, at a mode-2 token (R108). -/
  | m2Token
  /-- In CHUNK, at a length code (R114). -/
  | m2Length
  /-- In CHUNK at `OFF`, where a flag word is fetched (R106). -/
  | m2FlagWord
deriving DecidableEq, Repr

/-- The instructions of the codec core: tokens, length codes, stream prefixes and container records (30_encoding R126). -/
inductive Instr where
  /-- M3_LIT (R102): `n` and the bytes that follow in the segment, at most `n` of them; fewer when the segment ends first. -/
  | m3Lit (n : Byte) (data : List Byte)
  /-- M3_REF (R103): run length, distance minus one, and the coupled literal; none when the segment ends before it. -/
  | m3Ref (a b : Byte) (c : Option Byte)
  /-- M2_LIT (R109). -/
  | m2Lit (c : Byte)
  /-- M2_SREF (R110), up to its length code. -/
  | m2Sref (d : Byte)
  /-- M2_LREF (R111), up to its length code. -/
  | m2Lref (h : BitVec 5) (lo : Byte)
  /-- M2_AREF (R112), up to its length code. -/
  | m2Aref (lo : Byte)
  /-- M2_END (R113). -/
  | m2End
  /-- M2_RPTS (R115), the short repeat. -/
  | m2Rpts (lo : Byte) (v : BitVec 4) (c : Byte)
  /-- M2_RPTL (R115), the long repeat. -/
  | m2Rptl (lo : Byte) (v : BitVec 4) (x c : Byte)
  /-- LEN2 (R114). -/
  | len2
  /-- LEN3 (R114). -/
  | len3
  /-- LEN4 (R114). -/
  | len4
  /-- LEN5 (R114). -/
  | len5
  /-- LEN6_13 (R114): length `x + 6`. -/
  | len6to13 (x : BitVec 3)
  /-- LEN14_269 (R114): length `x + 14`. -/
  | len14to269 (x : Byte)
  /-- M2_CHUNK_START (R105): the method byte and the first flag group; none when the chunk holds only the method byte. -/
  | m2ChunkStart (method : Byte) (g : Option Byte)
  /-- M2_FLAG_WORD (R106). -/
  | m2FlagWord (w : BitVec 16)
  /-- M3_CONTAINER_HEADER (R120). -/
  | m3ContainerHeader (flag nb cs maxrec us : BitVec 32)
  /-- M3_BLOCK_RECORD (R121): the header and the payload bytes that are there, at most `bs - 4`. -/
  | m3BlockRecord (bs ubs bt : BitVec 32) (payload : List Byte)
  /-- M2_CONTAINER_HEADER (R122): the header and the sub-stream bytes that are there, at most `cs - 8`. -/
  | m2ContainerHeader (cs us nb : BitVec 32) (sub : List Byte)
  /-- M2_CHUNK_RECORD (R123): the length, the chunk bytes that are there, at most `bs - 2`, and the continuation byte, if any. -/
  | m2ChunkRecord (bs : BitVec 16) (chunk : List Byte) (cont : Option Byte)
deriving DecidableEq, Repr

/-- The place of a stream an instruction stands in. -/
def Instr.ctx : Instr → Ctx
  | .m3Lit _ _ => .m3Token
  | .m3Ref _ _ _ => .m3Token
  | .m2Lit _ => .m2Token
  | .m2Sref _ => .m2Token
  | .m2Lref _ _ => .m2Token
  | .m2Aref _ => .m2Token
  | .m2End => .m2Token
  | .m2Rpts _ _ _ => .m2Token
  | .m2Rptl _ _ _ _ => .m2Token
  | .len2 => .m2Length
  | .len3 => .m2Length
  | .len4 => .m2Length
  | .len5 => .m2Length
  | .len6to13 _ => .m2Length
  | .len14to269 _ => .m2Length
  | .m2ChunkStart _ _ => .m2Start
  | .m2FlagWord _ => .m2FlagWord
  | .m3ContainerHeader _ _ _ _ _ => .container
  | .m3BlockRecord _ _ _ _ => .m3Record
  | .m2ContainerHeader _ _ _ _ => .container
  | .m2ChunkRecord _ _ _ => .m2Chunk

end Sys2Proof
end

