-- ==== Sys2Proof/Machine/State.lean ====
section
/-! DEFINITION. The state of the codec core: the host-visible registers (10_state R31), the byte spaces (20_memory R70), the registers of
the five units (R33 to R39), and the model's own sequencing fields; and the state after reset (R44, R390). -/

namespace Sys2Proof.Machine

/-- A byte space (20_memory R70): a finite sequence of bytes indexed from 0. `cells` lists, in rising order of index, the bytes that are
not the blank byte 0; every index below `len` that is not listed reads 0 (log 3). No index at or above `len` exists. -/
structure Space where
  len : Nat
  cells : List Host.Cell
deriving DecidableEq, Repr

/-- A space of `n` bytes, all blank. -/
def Space.zeros (n : Nat) : Space := { len := n, cells := [] }

/-- The commands the host can write to CMD (R31). -/
inductive Command where
  | idle
  | decode
  | encode
  | reserved
deriving DecidableEq, Repr

/-- The two bits of CMD (R31). -/
def Command.code : Command → BitVec 2
  | .idle => 0
  | .decode => 1
  | .encode => 2
  | .reserved => 3

/-- The values of the STATE register (R31). -/
inductive EngineState where
  | idle
  | busy
  | done
  | error
deriving DecidableEq, Repr

/-- The two bits of STATE (R31). -/
def EngineState.code : EngineState → BitVec 2
  | .idle => 0
  | .busy => 1
  | .done => 2
  | .error => 3

/-- The error kinds of 60_exceptions R351. -/
inductive ErrorKind where
  | truncatedInput
  | unsupportedMethod
  | outOfData
  | segmentTooLarge
  | badDistance
  | badHeader
  | overflow
  | badCommand
deriving DecidableEq, Repr

/-- The error codes written to ERR (R351). -/
def ErrorKind.code : ErrorKind → BitVec 8
  | .truncatedInput => 1
  | .unsupportedMethod => 2
  | .outOfData => 3
  | .segmentTooLarge => 4
  | .badDistance => 5
  | .badHeader => 6
  | .overflow => 7
  | .badCommand => 8

/-- The Block Framer's registers (R33). -/
structure FramerRegs where
  FLAG : BitVec 32
  NB : BitVec 32
  CS : BitVec 32
  MAXREC : BitVec 32
  US : BitVec 32
  /-- 16 bits wide in mode 2: then the upper half is 0 (log 18). -/
  BS : BitVec 32
  UBS : BitVec 32
  BT : BitVec 32
  SEGIDX : BitVec 32
  COFF : BitVec 32
  CONT : BitVec 8
deriving DecidableEq, Repr

/-- Every framer register 0, as at the start of a command (R33, R391). -/
def FramerRegs.zero : FramerRegs :=
  { FLAG := 0, NB := 0, CS := 0, MAXREC := 0, US := 0, BS := 0, UBS := 0, BT := 0, SEGIDX := 0, COFF := 0, CONT := 0 }

/-- The mode-3 decoder's registers (R34), and `BASE`, the `base` of 41_mode3_decode R200. -/
structure M3DecRegs where
  IP : BitVec 32
  OP : Nat
  A : BitVec 8
  B : BitVec 8
  BASE : Nat
deriving DecidableEq, Repr

/-- The mode-2 decoder's registers (R36), and `tok`, the items of the token being read (log 6). -/
structure M2DecRegs where
  OFF : BitVec 16
  OPOS : BitVec 17
  FW : BitVec 16
  NBITS : BitVec 5
  RUN : BitVec 13
  LO : BitVec 8
  BR : BitVec 1
  DIST : BitVec 13
  tok : List Item
deriving DecidableEq, Repr

/-- The mode-3 encoder's registers (R38), and `z`, the payload written so far (R231). -/
structure M3EncRegs where
  W : Nat
  LIT : Nat
  BESTLEN : Nat
  BESTL : Nat
  z : List Byte
deriving DecidableEq, Repr

/-- The mode-2 encoder's registers (R39), and `z`, the chunk payload written so far (R300). `HEAD` and `NEXT` are tables: pairs of a key
and a position in rising order of key; a key that is not listed is empty. -/
structure M2EncRegs where
  POS : Nat
  GPOS : Nat
  GCAP : Nat
  GN : Nat
  RLEN : Nat
  BL : Nat
  BD : Nat
  HEAD : List (Nat × Nat)
  NEXT : List (Nat × Nat)
  z : List Byte
deriving DecidableEq, Repr

/-- One encoded segment (40_framer R171) or chunk (R181): its length before encoding, its block type, its payload. -/
structure Rec where
  ulen : Nat
  bt : BitVec 32
  z : List Byte
deriving DecidableEq, Repr

/-- Which rule the engine is at. The model's own field: the spec's rules stand in an order, and this says where the engine is (log 5). -/
inductive Phase where
  /-- No command runs: STATE is IDLE, DONE or ERROR (R364, R390). -/
  | waiting
  /-- A command has started: R32, R150, R170 choose what to run. -/
  | dispatch
  /-- DECODE, at the container header (R151). -/
  | header
  /-- DECODE mode 3, at a block record (R153). -/
  | m3Record
  /-- DECODE mode 3, in the token loop of a segment (R200). -/
  | m3Token
  /-- DECODE mode 2, at a chunk record (R160). -/
  | m2Chunk
  /-- DECODE mode 2, at the start of a chunk (R260). -/
  | m2Start
  /-- DECODE mode 2, in the token loop (R265). -/
  | m2Token
  /-- DECODE mode 2, in `setup_run` (R273). -/
  | m2Length
  /-- DECODE mode 2, at the copy-out and the stop test (R162, R163). -/
  | m2CopyOut
  /-- ENCODE mode 3, before a segment or, when none is left, the header (R171). -/
  | m3Split
  /-- ENCODE mode 3, in the scan of a segment (R231). -/
  | m3Scan
  /-- ENCODE mode 3, writing the records (R172). -/
  | m3Write
  /-- ENCODE mode 2, before a chunk or, when none is left, the container (R181, R182). -/
  | m2Split
  /-- ENCODE mode 2, in the scan of a chunk (R302). -/
  | m2Scan
deriving DecidableEq, Repr

/-- What the host can do to the machine (R32, R392, R405). -/
inductive HostAction where
  /-- Make IN exactly these bytes (R392). -/
  | writeIn (bytes : List Byte)
  /-- Set SP (R392). -/
  | writeSp (v : BitVec 64)
  /-- Write MODE (R392). -/
  | writeMode (v : BitVec 8)
  /-- Write CMD: start a command or clear (R32, R364). -/
  | writeCmd (c : Command)
  /-- Power-on reset (R390, R405). -/
  | powerOn
deriving DecidableEq, Repr

/-- Whose turn it is (log 1). -/
inductive Turn where
  /-- The engine makes its next step. -/
  | engine
  /-- The host acts. -/
  | host (a : HostAction)
deriving DecidableEq, Repr

/-- The state of the codec core. -/
structure State where
  CMD : Command
  MODE : BitVec 8
  STATE : EngineState
  ERR : BitVec 8
  SP : BitVec 64
  OUTLEN : BitVec 64
  IN : Space
  OUT : Space
  SEG : Space
  SUB : Space
  /-- The cursor of SUB (20_memory R72, R80). -/
  SUBPOS : Nat
  CHUNK : Space
  SCRATCH : Space
  fr : FramerRegs
  m3d : M3DecRegs
  m2d : M2DecRegs
  m3e : M3EncRegs
  m2e : M2EncRegs
  /-- The encoded segments or chunks so far, in order (R171, R181). -/
  recs : List Rec
  phase : Phase
  /-- The turns to come; when the list is empty every turn is the engine's (log 1). -/
  turns : List Turn
  /-- `ENCODER_POLICY` (00_scope R12, log 10); no step changes it. -/
  policy : EncoderPolicy
  /-- How many free values were drawn: the next draw is the one of this number (log 4). -/
  fresh : Nat
deriving DecidableEq, Repr

/-- What stops the machine. An error of 60_exceptions is none of these: it is a next state. -/
inductive Fault where
  /-- Raised by M3_REF when the segment's output does not end where OUT ends, so that a byte it names may not exist. No run from reset
  reaches such a state. Safe: the model stops (log 17). -/
  | outsideSpace
  /-- Raised by the mode-2 token reader when the items it holds spell no beginning of a token. No run from reset reaches such a state.
  Safe: the model stops (log 17). -/
  | malformedToken
deriving DecidableEq, Repr

/-- What the machine gives no meaning to. -/
inductive Refusal where
  /-- An instruction with no meaning yet, raised by exec's arms only. Safe: the model stops. -/
  | notModelled (mnemonic : String)
  /-- Raised when the host writes IN, SP or MODE while STATE is BUSY (70_reset R403, 93 I21: no move). Safe: the model stops (log 15). -/
  | hostWriteWhileBusy
deriving DecidableEq, Repr

/-- The machine after power-on reset (R44, R390): CMD, MODE, STATE, ERR and OUTLEN as the spec says; every other register, which the
spec leaves unspecified, at the value of log 2; no turn scheduled; the default policy (R12). -/
def State.reset : State where
  CMD := .idle
  MODE := 3
  STATE := .idle
  ERR := 0
  SP := 0
  OUTLEN := 0
  IN := Space.zeros 0
  OUT := Space.zeros 0
  SEG := Space.zeros 0
  SUB := Space.zeros 0
  SUBPOS := 0
  CHUNK := Space.zeros 0
  SCRATCH := Space.zeros Config.m2Scratch
  fr := FramerRegs.zero
  m3d := { IP := 0, OP := 0, A := 0, B := 0, BASE := 0 }
  m2d := { OFF := 0, OPOS := 0, FW := 0, NBITS := 0, RUN := 0, LO := 0, BR := 0, DIST := 0, tok := [] }
  m3e := { W := 0, LIT := 0, BESTLEN := 0, BESTL := 0, z := [] }
  m2e := { POS := 0, GPOS := 0, GCAP := 0, GN := 0, RLEN := 0, BL := 0, BD := 0, HEAD := [], NEXT := [], z := [] }
  recs := []
  phase := .waiting
  turns := []
  policy := .reference
  fresh := 0

end Sys2Proof.Machine
end

