-- ==== Sys2Proof/Machine/Ops.lean ====
section
/-! DEFINITION. The named operations over byte spaces and registers: reading and writing a space, moving the stream position, starting
and ending a command, and raising an error (60_exceptions R350, R362). -/

namespace Sys2Proof.Machine

/-! ## Byte spaces -/

/-- What an index below the length that is not listed reads as (log 3). -/
def blank : Byte := 0

/-- The listed byte at index `a`, or the blank byte. -/
def cellsGet : List Host.Cell → Nat → Byte
  | [], _ => blank
  | c :: r, a => if c.1 = a then c.2 else cellsGet r a

/-- The cells with the byte at index `a` made `b`: still in rising order, and no blank byte listed. -/
def cellsSet : List Host.Cell → Nat → Byte → List Host.Cell
  | [], a, b => if b = blank then [] else [(a, b)]
  | c :: r, a, b =>
    if a < c.1 then (if b = blank then c :: r else (a, b) :: c :: r)
    else if a = c.1 then (if b = blank then r else (a, b) :: r)
    else c :: cellsSet r a b

/-- The canonical form of cells: every index at least `lo` and below `len`, strictly rising, no blank byte. -/
def cellsWf (len : Nat) : Nat → List Host.Cell → Bool
  | _, [] => true
  | lo, c :: r => lo ≤ c.1 && c.1 < len && c.2 != blank && cellsWf len (c.1 + 1) r

/-- The canonical form of a space. -/
def Space.wf (m : Space) : Bool := cellsWf m.len 0 m.cells

/-- `MemRead` of one byte (00_scope R16). -/
def Space.get (m : Space) (a : Nat) : Byte := cellsGet m.cells a

/-- `MemWrite` of one byte (R16). A space grows to hold the index written (OUT, 20_memory R70). -/
def Space.set (m : Space) (a : Nat) (b : Byte) : Space :=
  { len := max m.len (a + 1), cells := cellsSet m.cells a b }

/-- `MemWrite` of a sequence, in increasing order of index (R16). -/
def Space.setAll (m : Space) (a : Nat) : List Byte → Space
  | [] => m
  | b :: bs => (m.set a b).setAll (a + 1) bs

/-- The space that holds exactly these bytes. -/
def Space.ofList (bs : List Byte) : Space := (Space.zeros 0).setAll 0 bs

/-- `S[a : a+n]`, cut at the end of the space (R15, 20_memory R71, R72). -/
def Space.slice (m : Space) (a n : Nat) : List Byte :=
  (List.range (min n (m.len - a))).map fun i => m.get (a + i)

/-- All the bytes of a space. -/
def Space.toList (m : Space) : List Byte := m.slice 0 m.len

/-- The back-reference copy of both decoders: `k` bytes, one by one in increasing order, each read `d` places before the place it is
written (41_mode3_decode R205, 43_mode2_decode R274, 70_reset R394). -/
def copyBack (d : Nat) : Nat → Nat → Space → Space
  | 0, _, m => m
  | k + 1, pos, m => copyBack d k (pos + 1) (m.set pos (m.get (pos - d)))

/-! ## Cursors -/

/-- Move SP on by `n` bytes (20_memory R71). Beyond 64 bits the spec states no value: a free value (log 9). -/
def advanceSp (n : Nat) (s : State) : State :=
  if s.SP.toNat + n < 2 ^ 64 then { s with SP := BitVec.ofNat 64 (s.SP.toNat + n) }
  else { s with SP := Config.freeSp s.fresh, fresh := s.fresh + 1 }

/-! ## Commands -/

/-- Raising an error (60_exceptions R350, R362): STATE and ERR are written, the command ends, and OUT, OUTLEN and SP are unspecified
from here on (10_state R45): free values (log 4). -/
def raise (e : ErrorKind) (s : State) : State :=
  { s with
    STATE := .error
    ERR := e.code
    OUT := Space.ofList (Config.freeOut s.fresh)
    OUTLEN := Config.freeOutlen s.fresh
    SP := Config.freeSp s.fresh
    phase := .waiting
    fresh := s.fresh + 1 }

/-- `OUTLEN <- len(OUT)` (40_framer R150, R170). Beyond 64 bits the spec states no value: a free value (log 9). -/
def setOutlen (s : State) : State :=
  if s.OUT.len < 2 ^ 64 then { s with OUTLEN := BitVec.ofNat 64 s.OUT.len }
  else { s with OUTLEN := Config.freeOutlen s.fresh, fresh := s.fresh + 1 }

/-- The successful end of a command (10_state R32, 70_reset R402). -/
def finish (s : State) : State := { setOutlen s with STATE := .done, ERR := 0, phase := .waiting }

/-- The start of a command (R32, R391): BUSY, ERR 0 because STATE is not ERROR (R31), the framer registers 0, OUT empty; the spaces of
the units and the encoder's results start empty because nothing is carried over (R43). -/
def startCommand (s : State) : State :=
  { s with
    STATE := .busy
    ERR := 0
    OUT := Space.zeros 0
    SEG := Space.zeros 0
    SUB := Space.zeros 0
    SUBPOS := 0
    CHUNK := Space.zeros 0
    fr := FramerRegs.zero
    recs := []
    phase := .dispatch }

/-- On to the next mode-3 block record, or to the end of the container after the last (40_framer R153, R156). -/
def nextRecord (s : State) : State :=
  if s.fr.SEGIDX.toNat + 1 < s.fr.NB.toNat then
    { s with fr := { s.fr with SEGIDX := s.fr.SEGIDX + 1 }, phase := .m3Record }
  else finish s

end Sys2Proof.Machine
end

