-- ==== Sys2Proof/Machine/HostPort.lean ====
section
/-! DEFINITION. What the host does to the machine (10_state R30 to R32, 60_exceptions R364, 70_reset R392, R403 to R405). -/

namespace Sys2Proof.Machine

/-- The host's clear, CMD = IDLE in DONE or ERROR (R364): STATE and ERR as that rule says, and every register the value R31's last column
gives it after a clear; SP is unspecified there, a free value (log 8). The column names no space: OUT and IN keep their bytes (log 8). -/
def clearEngine (s : State) : State :=
  { s with CMD := .idle, MODE := 3, STATE := .idle, ERR := 0, OUTLEN := 0, SP := Config.freeSp s.fresh, fresh := s.fresh + 1 }

/-- A write of CMD (R31, R32, R364): ignored while BUSY (R404); IDLE clears a DONE or ERROR engine; every other value starts a command. -/
def writeCmd (c : Command) (s : State) : State :=
  if s.STATE = .busy then s
  else
    match c with
    | .idle => if s.STATE = .idle then { s with CMD := .idle } else clearEngine s
    | .decode => startCommand { s with CMD := .decode }
    | .encode => startCommand { s with CMD := .encode }
    | .reserved => startCommand { s with CMD := .reserved }

/-- Power-on reset (R44, R390) of a running machine: the host registers as R44 says; what R44 leaves unspecified and the host can see is a
free value (log 16). The turns to come, the policy and the counter of free values are the model's own and go on. -/
def powerOn (s : State) : State :=
  { State.reset with
    SP := Config.freeSp s.fresh
    IN := Space.ofList (Config.freeIn s.fresh)
    OUT := Space.ofList (Config.freeOut s.fresh)
    turns := s.turns
    policy := s.policy
    fresh := s.fresh + 1 }

/-- A host write of data: no move while BUSY (R403, 93 I21, log 15). -/
def whenNotBusy (s t : State) : Host.Outcome State Fault Refusal :=
  if s.STATE = .busy then .refused .hostWriteWhileBusy else .next t

/-- One action of the host. -/
def hostAct (a : HostAction) (s : State) : Host.Outcome State Fault Refusal :=
  match a with
  | .writeIn bytes => whenNotBusy s { s with IN := Space.ofList bytes }
  | .writeSp v => whenNotBusy s { s with SP := v }
  | .writeMode v => whenNotBusy s { s with MODE := v }
  | .writeCmd c => .next (writeCmd c s)
  | .powerOn => .next (powerOn s)

end Sys2Proof.Machine
end

