-- ==== Sys2Proof/WellFormed.lean ====
section
/-! DEFINITION. Which instructions are complete and spell what their row of the table says: the operand ranges of 30_encoding and no
byte cut off. -/

namespace Sys2Proof

/-- The operand ranges and the completeness of each row (30_encoding R102 to R123). An instruction cut off by the end of its space, or
with an operand outside its range, is not well-formed; the machine still has a meaning for it (an error). -/
def WellFormed : Instr → Bool
  | .m3Lit n data => data.length == n.toNat
  | .m3Ref a _ c => a != 0 && c.isSome
  | .m2Lit _ => true
  | .m2Sref _ => true
  | .m2Lref h _ => h != 0
  | .m2Aref lo => 2 < lo.toNat
  | .m2End => true
  | .m2Rpts lo _ _ => lo == 1 || lo == 2
  | .m2Rptl lo _ _ _ => lo == 1 || lo == 2
  | .len2 => true
  | .len3 => true
  | .len4 => true
  | .len5 => true
  | .len6to13 _ => true
  | .len14to269 _ => true
  | .m2ChunkStart method g => method == 0 && g.isSome
  | .m2FlagWord _ => true
  | .m3ContainerHeader flag _ _ _ _ => flag.msb
  | .m3BlockRecord bs _ _ payload => 4 ≤ bs.toNat && payload.length == bs.toNat - 4
  | .m2ContainerHeader cs _ _ sub => !cs.msb && (8 ≤ cs.toNat && sub.length == cs.toNat - 8)
  | .m2ChunkRecord bs chunk _ => 2 ≤ bs.toNat && chunk.length == bs.toNat - 2

end Sys2Proof
end

