-- ==== Sys2Proof/Decode.lean ====
section
/-! DEFINITION. The decoder, total on any list of items and rejecting by name, and after it the encoder, both from 30_encoding R100 to
R124. The decoder asks for the items of a token one at a time, in the order the hardware does (R106): what it lacks, it names. -/

namespace Sys2Proof

/-! ## Demand-driven reading -/

/-- The answer of a reader over a list of items: a value and the rest of the list, or by name what is missing or wrong. -/
inductive Take (α : Type) where
  /-- The value read and the items after it. -/
  | ok (a : α) (rest : List Item)
  /-- The list ends where a flag bit is needed. -/
  | needFlag
  /-- The list ends where a byte is needed. -/
  | needByte
  /-- A byte stands where a flag bit is needed, or a flag bit where a byte is. -/
  | wrongKind
deriving DecidableEq, Repr

/-- Read on with `f` after a successful read. -/
def Take.bind {α β : Type} (t : Take α) (f : α → List Item → Take β) : Take β :=
  match t with
  | .ok a r => f a r
  | .needFlag => .needFlag
  | .needByte => .needByte
  | .wrongKind => .wrongKind

/-- One flag bit. -/
def takeFlag : List Item → Take Bool
  | [] => .needFlag
  | .flag b :: r => .ok b r
  | .byte _ :: _ => .wrongKind

/-- One byte. -/
def takeByte : List Item → Take Byte
  | [] => .needByte
  | .byte v :: r => .ok v r
  | .flag _ :: _ => .wrongKind

/-- `k` flag bits as a number, the first bit read the most significant (R107): `v` is what was read before. -/
def takeBits : Nat → Nat → List Item → Take Nat
  | 0, v, xs => .ok v xs
  | k + 1, v, xs => (takeFlag xs).bind fun b r => takeBits k (2 * v + b.toNat) r

/-- A little-endian field of `k` bytes (R75): `v` is the value of the bytes before, `scale` the weight of the next. -/
def takeLittle : Nat → Nat → Nat → List Item → Take Nat
  | 0, _, v, xs => .ok v xs
  | k + 1, scale, v, xs => (takeByte xs).bind fun b r => takeLittle k (scale * 256) (v + b.toNat * scale) r

/-- A u16 field (R75). -/
def takeU16 (xs : List Item) : Take (BitVec 16) :=
  (takeLittle 2 1 0 xs).bind fun v r => .ok (BitVec.ofNat 16 v) r

/-- A u32 field (R75). -/
def takeU32 (xs : List Item) : Take (BitVec 32) :=
  (takeLittle 4 1 0 xs).bind fun v r => .ok (BitVec.ofNat 32 v) r

/-- Up to `n` bytes: fewer when the bytes end first (20_memory R71, R72). -/
def takeUpTo : Nat → List Item → List Byte × List Item
  | 0, xs => ([], xs)
  | _ + 1, [] => ([], [])
  | _ + 1, .flag b :: r => ([], .flag b :: r)
  | n + 1, .byte v :: r => (v :: (takeUpTo n r).1, (takeUpTo n r).2)

/-- One byte if there is one. -/
def takeMaybe (xs : List Item) : Option Byte × List Item :=
  match takeUpTo 1 xs with
  | (v :: _, r) => (some v, r)
  | ([], r) => (none, r)

/-! ## The decoder -/

/-- A mode-3 token (R101 to R104). -/
def decodeM3Token (xs : List Item) : Take Instr :=
  (takeByte xs).bind fun a r1 =>
  (takeByte r1).bind fun b r2 =>
    if a = 0 then .ok (.m3Lit b (takeUpTo b.toNat r2).1) (takeUpTo b.toNat r2).2
    else .ok (.m3Ref a b (takeMaybe r2).1) (takeMaybe r2).2

/-- The rest of a repeating-byte run after `lo` (R115): the branch bit, the four count bits, the count byte of the long form, the byte. -/
def decodeRepeat (lo : Byte) (xs : List Item) : Take Instr :=
  (takeFlag xs).bind fun br r1 =>
  (takeBits 4 0 r1).bind fun v r2 =>
    if br then
      (takeByte r2).bind fun x r3 =>
      (takeByte r3).bind fun c r4 => .ok (.m2Rptl lo (BitVec.ofNat 4 v) x c) r4
    else
      (takeByte r2).bind fun c r3 => .ok (.m2Rpts lo (BitVec.ofNat 4 v) c) r3

/-- A mode-2 token up to its length code, in the order of R108 and 43_mode2_decode R265. -/
def decodeM2Token (xs : List Item) : Take Instr :=
  (takeFlag xs).bind fun f1 r1 =>
    if f1 = false then (takeByte r1).bind fun c r2 => .ok (.m2Lit c) r2
    else
      (takeFlag r1).bind fun f2 r2 =>
        if f2 = false then (takeByte r2).bind fun d r3 => .ok (.m2Sref d) r3
        else
          (takeBits 5 0 r2).bind fun h r3 =>
          (takeByte r3).bind fun lo r4 =>
            if h ≠ 0 then .ok (.m2Lref (BitVec.ofNat 5 h) lo) r4
            else if 2 < lo.toNat then .ok (.m2Aref lo) r4
            else if lo = 0 then .ok .m2End r4
            else decodeRepeat lo r4

/-- A length code (R114, 43_mode2_decode R273). -/
def decodeM2Length (xs : List Item) : Take Instr :=
  (takeFlag xs).bind fun f1 r1 =>
    if f1 then .ok .len2 r1
    else (takeFlag r1).bind fun f2 r2 =>
      if f2 then .ok .len3 r2
      else (takeFlag r2).bind fun f3 r3 =>
        if f3 then .ok .len4 r3
        else (takeFlag r3).bind fun f4 r4 =>
          if f4 then .ok .len5 r4
          else (takeFlag r4).bind fun f5 r5 =>
            if f5 then (takeBits 3 0 r5).bind fun x r6 => .ok (.len6to13 (BitVec.ofNat 3 x)) r6
            else (takeByte r5).bind fun x r6 => .ok (.len14to269 x) r6

/-- A container header of either mode: bit 31 of the first u32 selects (R120, R122, R124). -/
def decodeContainer (xs : List Item) : Take Instr :=
  (takeU32 xs).bind fun flag r1 =>
    if flag.msb then
      (takeU32 r1).bind fun nb r2 =>
      (takeU32 r2).bind fun cs r3 =>
      (takeU32 r3).bind fun maxrec r4 =>
      (takeU32 r4).bind fun us r5 => .ok (.m3ContainerHeader flag nb cs maxrec us) r5
    else
      (takeU32 r1).bind fun us r2 =>
      (takeU32 r2).bind fun nb r3 =>
        .ok (.m2ContainerHeader flag us nb (takeUpTo (flag.toNat - 8) r3).1) (takeUpTo (flag.toNat - 8) r3).2

/-- A mode-3 block record (R121). -/
def decodeM3Record (xs : List Item) : Take Instr :=
  (takeU32 xs).bind fun bs r1 =>
  (takeU32 r1).bind fun ubs r2 =>
  (takeU32 r2).bind fun bt r3 =>
    .ok (.m3BlockRecord bs ubs bt (takeUpTo (bs.toNat - 4) r3).1) (takeUpTo (bs.toNat - 4) r3).2

/-- A mode-2 chunk record (R123). -/
def decodeM2Chunk (xs : List Item) : Take Instr :=
  (takeU16 xs).bind fun bs r1 =>
    .ok (.m2ChunkRecord bs (takeUpTo (bs.toNat - 2) r1).1 (takeMaybe (takeUpTo (bs.toNat - 2) r1).2).1)
      (takeMaybe (takeUpTo (bs.toNat - 2) r1).2).2

/-- The start of a chunk (R105). -/
def decodeM2Start (xs : List Item) : Take Instr :=
  (takeByte xs).bind fun method r1 => .ok (.m2ChunkStart method (takeMaybe r1).1) (takeMaybe r1).2

/-- A flag word (R106). -/
def decodeM2FlagWord (xs : List Item) : Take Instr :=
  (takeU16 xs).bind fun w r1 => .ok (.m2FlagWord w) r1

/-- The decoder: what stands at the front of `xs` in the place `c`. -/
def decode (c : Ctx) (xs : List Item) : Take Instr :=
  match c with
  | .container => decodeContainer xs
  | .m3Record => decodeM3Record xs
  | .m3Token => decodeM3Token xs
  | .m2Chunk => decodeM2Chunk xs
  | .m2Start => decodeM2Start xs
  | .m2Token => decodeM2Token xs
  | .m2Length => decodeM2Length xs
  | .m2FlagWord => decodeM2FlagWord xs

/-! ## The encoder -/

/-- The low `k` bits of `v` as flag bits, most significant first (R107). -/
def flagBits : Nat → Nat → List Item
  | 0, _ => []
  | k + 1, v => .flag (v.testBit k) :: flagBits k v

/-- The little-endian bytes of a `k`-byte field (R15, R75). -/
def littleBytes : Nat → Nat → List Byte
  | 0, _ => []
  | k + 1, v => BitVec.ofNat 8 v :: littleBytes k (v / 256)

/-- `u16le` (R15). -/
def u16le (v : BitVec 16) : List Byte := littleBytes 2 v.toNat

/-- `u32le` (R15). -/
def u32le (v : BitVec 32) : List Byte := littleBytes 4 v.toNat

/-- Bytes as items. -/
def byteItems (bs : List Byte) : List Item := bs.map .byte

/-- The seven flag bits `1,1,0,0,0,0,0` that M2_AREF, M2_END and the repeats begin with (R112, R113, R115). -/
def farFlags : List Item := .flag true :: .flag true :: flagBits 5 0

/-- The encoder: the items of an instruction in stream order (30_encoding R102 to R123). -/
def encode : Instr → List Item
  | .m3Lit n data => byteItems (0 :: n :: data)
  | .m3Ref a b c => byteItems (a :: b :: c.toList)
  | .m2Lit c => [.flag false, .byte c]
  | .m2Sref d => [.flag true, .flag false, .byte d]
  | .m2Lref h lo => .flag true :: .flag true :: (flagBits 5 h.toNat ++ [.byte lo])
  | .m2Aref lo => farFlags ++ [.byte lo]
  | .m2End => farFlags ++ [.byte 0]
  | .m2Rpts lo v c => farFlags ++ .byte lo :: .flag false :: (flagBits 4 v.toNat ++ [.byte c])
  | .m2Rptl lo v x c => farFlags ++ .byte lo :: .flag true :: (flagBits 4 v.toNat ++ [.byte x, .byte c])
  | .len2 => flagBits 1 1
  | .len3 => flagBits 2 1
  | .len4 => flagBits 3 1
  | .len5 => flagBits 4 1
  | .len6to13 x => flagBits 5 1 ++ flagBits 3 x.toNat
  | .len14to269 x => flagBits 5 0 ++ [.byte x]
  | .m2ChunkStart method g => byteItems (method :: g.toList)
  | .m2FlagWord w => byteItems (u16le w)
  | .m3ContainerHeader flag nb cs maxrec us =>
      byteItems (u32le flag ++ u32le nb ++ u32le cs ++ u32le maxrec ++ u32le us)
  | .m3BlockRecord bs ubs bt payload => byteItems (u32le bs ++ u32le ubs ++ u32le bt ++ payload)
  | .m2ContainerHeader cs us nb sub => byteItems (u32le cs ++ u32le us ++ u32le nb ++ sub)
  | .m2ChunkRecord bs chunk cont => byteItems (u16le bs ++ chunk ++ cont.toList)

/-- The byte of an item; a flag bit has none. -/
def Item.toByte : Item → Option Byte
  | .byte v => some v
  | .flag _ => none

/-- The bytes of a byte-aligned instruction (R100: mode 3 and the containers are whole bytes). -/
def encodeBytes (i : Instr) : List Byte := (encode i).filterMap Item.toByte

/-! ## The table's numbering -/

/-- The length in bytes of the longest mode-3 token, an M3_LIT of 255 bytes (R102). -/
def longestToken : Nat := 257

/-- The bytes a table row's bits spell: bit 0 is the least significant bit of the first byte, a later byte's bits count on; above `nbits`
every bit is 0, up to the longest mode-3 token. -/
def tableBytes (nbits w : Nat) : List Byte := littleBytes longestToken (w % 2 ^ nbits)

/-- The instruction the decoder reads from bits numbered as spec/opcode_table.json numbers them, at a mode-3 token: the one place of a
stream whose rows the table gives bits of their own (log 12). -/
def decodeTableWord (nbits w : Nat) : Option Instr :=
  match decode .m3Token (byteItems (tableBytes nbits w)) with
  | .ok i _ => some i
  | .needFlag => none
  | .needByte => none
  | .wrongKind => none

end Sys2Proof
end

