-- ==== Sys2Proof/Machine/Operands.lean ====
section
/-! DEFINITION. Operand assembly (30_encoding R116, R117): distances and lengths. Nothing is sign-extended or scaled. -/

namespace Sys2Proof.Machine

/-- The distance of an M3_REF: `zext(b) + 1` (R116, 41_mode3_decode R206). -/
def m3Distance (b : Byte) : Nat := b.toNat + 1

/-- The distance of an M2_SREF or M2_AREF: the byte (R116). -/
def byteDistance (d : Byte) : BitVec 13 := d.setWidth 13

/-- The distance of an M2_LREF: `(h << 8) | lo` (R116, 43_mode2_decode R268). -/
def lrefDistance (h : BitVec 5) (lo : Byte) : BitVec 13 := h.setWidth 13 <<< 8 ||| lo.setWidth 13

/-- The count of an M2_RPTS: `v + 14` (R115, R272). -/
def shortCount (v : BitVec 4) : Nat := v.toNat + 0xE

/-- The count of an M2_RPTL: `((v << 8) | x) + 14` (R115, R272). -/
def longCount (v : BitVec 4) (x : Byte) : Nat := (v.setWidth 12 <<< 8 ||| x.setWidth 12).toNat + 0xE

/-- The length of a LEN6_13: `x + 6` (R114, R273). -/
def midLength (x : BitVec 3) : Nat := x.toNat + 6

/-- The length of a LEN14_269: `x + 14` (R114, R273). -/
def byteLength (x : Byte) : Nat := x.toNat + 0xE

end Sys2Proof.Machine
end

