-- ==== Sys2Proof/Machine/Framer.lean ====
section
/-! DEFINITION. The Block Framer on the decode side (40_framer R150 to R164): the meanings of the container records, and the copy-out
and stop test of mode 2. -/

namespace Sys2Proof.Machine

/-- M3_CONTAINER_HEADER (R151, R152): the five fields; with no record the result is empty. -/
def execM3ContainerHeader (flag nb cs maxrec us : BitVec 32) (s : State) : Host.Outcome State Fault Refusal :=
  let s1 := advanceSp 20
    { s with fr := { s.fr with FLAG := flag, NB := nb, CS := cs, MAXREC := maxrec, US := us, SEGIDX := 0 }, phase := .m3Record }
  if nb = 0 then .next (finish s1) else .next s1

/-- The start of a mode-3 segment's decoding (10_state R34, 41_mode3_decode R200): `A` and `B` hold no value, a free value (log 7). -/
def startSegment (s : State) : State :=
  { s with
    m3d := { IP := 0, OP := 0, A := Config.freeA s.fresh, B := Config.freeB s.fresh, BASE := s.OUT.len }
    phase := .m3Token
    fresh := s.fresh + 1 }

/-- M3_BLOCK_RECORD (R153, R154, R155): `BadHeader` below 4, then `TruncatedInput` of a short payload; a segment of type 8 goes to the
mode-3 decoder, any other is appended verbatim. -/
def execM3BlockRecord (bs ubs bt : BitVec 32) (payload : List Byte) (s : State) : Host.Outcome State Fault Refusal :=
  let s1 := advanceSp (12 + payload.length)
    { s with fr := { s.fr with BS := bs, UBS := ubs, BT := bt }, SEG := Space.ofList payload }
  if bs.toNat < 4 then .next (raise .badHeader s1)
  else if payload.length < bs.toNat - 4 then .next (raise .truncatedInput s1)
  else if bt = Config.m3TypeCompressed then .next (startSegment s1)
  else .next (nextRecord { s1 with OUT := s1.OUT.setAll s1.OUT.len payload })

/-- M2_CONTAINER_HEADER (R158, R159): `BadHeader` below 8, then OUT is `US` zero bytes and SUB the sub-stream, `TruncatedInput` when it
is short; with no chunk the result is the zero bytes. -/
def execM2ContainerHeader (cs us nb : BitVec 32) (sub : List Byte) (s : State) : Host.Outcome State Fault Refusal :=
  let s1 := advanceSp (12 + sub.length)
    { s with fr := { s.fr with FLAG := cs, CS := cs, US := us, NB := nb } }
  if cs.toNat < 8 then .next (raise .badHeader s1)
  else
    let s2 := { s1 with OUT := Space.zeros us.toNat, SUB := Space.ofList sub, SUBPOS := 0,
                        fr := { s1.fr with COFF := 0, SEGIDX := 0 }, phase := .m2Chunk }
    if sub.length < cs.toNat - 8 then .next (raise .truncatedInput s2)
    else if nb = 0 then .next (finish s2)
    else .next s2

/-- M2_CHUNK_RECORD (R160): `BadHeader` below 2, then `TruncatedInput` of a short chunk. The continuation byte of the record is left
unread here: the stop test reads it, after the chunk is decoded and only then (R163, log 19). -/
def execM2ChunkRecord (bs : BitVec 16) (chunk : List Byte) (_cont : Option Byte) (s : State) : Host.Outcome State Fault Refusal :=
  let s1 := { s with fr := { s.fr with BS := bs.setWidth 32 }, CHUNK := Space.ofList chunk,
                     SUBPOS := s.SUBPOS + 2 + chunk.length, phase := .m2Start }
  if bs.toNat < 2 then .next (raise .badHeader s1)
  else if chunk.length < bs.toNat - 2 then .next (raise .truncatedInput s1)
  else .next s1

/-- The stop test (R163, in its order): the output is full; the continuation byte is missing or 0; else on to the next chunk, or the end
after the last. -/
def stopTest (s : State) : State :=
  if s.fr.US.toNat ≤ s.fr.COFF.toNat then finish s
  else
    match s.SUB.slice s.SUBPOS 1 with
    | [] => finish s
    | t :: _ =>
      if t = 0 then finish { s with SUBPOS := s.SUBPOS + 1 }
      else
        let s1 := { s with SUBPOS := s.SUBPOS + 1, fr := { s.fr with CONT := t, SEGIDX := s.fr.SEGIDX + 1 }, phase := .m2Chunk }
        if s.fr.SEGIDX.toNat + 1 < s.fr.NB.toNat then s1 else finish s1

/-- The copy-out of a decoded chunk and the stop test after it (R162, R163): `Overflow` when the chunk does not fit in what is left. -/
def copyOut (s : State) : State :=
  if s.fr.US.toNat < s.fr.COFF.toNat + s.m2d.OPOS.toNat then raise .overflow s
  else
    stopTest { s with
      OUT := s.OUT.setAll s.fr.COFF.toNat (s.SCRATCH.slice 0 s.m2d.OPOS.toNat)
      fr := { s.fr with COFF := s.fr.COFF + BitVec.ofNat 32 s.m2d.OPOS.toNat } }

end Sys2Proof.Machine
end

