-- ==== Sys2Proof/Machine/Flags.lean ====
section
/-! DEFINITION. The mode-2 flag bits, the only flags of the core (10_state R37): `FW` and `NBITS` are written here and nowhere else. -/

namespace Sys2Proof.Machine

/-- The first flag group of a chunk: the byte after the method byte (43_mode2_decode R261; G1, log 14). -/
def loadFirstGroup (g : Byte) (r : M2DecRegs) : M2DecRegs := { r with FW := g.setWidth 16, NBITS := 8 }

/-- A new flag word (R262): `OFF` moves past its two bytes. -/
def loadFlagWord (w : BitVec 16) (r : M2DecRegs) : M2DecRegs := { r with FW := w, NBITS := 16, OFF := r.OFF + 2 }

/-- The rest of `read_bit()` once a bit is there (R262): bit 0 of `FW` is taken, and held among the items of the token being read. -/
def takeFlagBit (r : M2DecRegs) : M2DecRegs :=
  { r with FW := r.FW >>> 1, NBITS := r.NBITS - 1, tok := r.tok ++ [.flag (r.FW.getLsbD 0)] }

/-- `read_byte()` once a byte is there (R264): it never touches `FW` or `NBITS`. -/
def takeStreamByte (v : Byte) (r : M2DecRegs) : M2DecRegs :=
  { r with OFF := r.OFF + 1, tok := r.tok ++ [.byte v] }

end Sys2Proof.Machine
end

