-- ==== Sys2Proof/Machine/LengthCodes.lean ====
section
/-! DEFINITION. The meanings of the length codes: `setup_run` (43_mode2_decode R273, R274). -/

namespace Sys2Proof.Machine

/-- `setup_run` once the length is known (R273, R274): `RUN` is the length, then `BadDistance`, then `Overflow`, then the copy byte by
byte from `DIST`; the token loop goes on. -/
def setupRun (len : Nat) (s : State) : State :=
  let s1 := { s with m2d := { s.m2d with RUN := BitVec.ofNat 13 len } }
  if s.m2d.DIST = 0 ∨ s.m2d.OPOS.toNat < s.m2d.DIST.toNat then raise .badDistance s1
  else if Config.m2Scratch < s.m2d.OPOS.toNat + len then raise .overflow s1
  else
    { s1 with
      SCRATCH := copyBack s.m2d.DIST.toNat len s.m2d.OPOS.toNat s.SCRATCH
      m2d := { s1.m2d with OPOS := s.m2d.OPOS + BitVec.ofNat 17 len }
      phase := .m2Token }

/-- LEN2 (R114, R273). -/
def execLen2 (s : State) : Host.Outcome State Fault Refusal := .next (setupRun 2 s)

/-- LEN3 (R114, R273). -/
def execLen3 (s : State) : Host.Outcome State Fault Refusal := .next (setupRun 3 s)

/-- LEN4 (R114, R273). -/
def execLen4 (s : State) : Host.Outcome State Fault Refusal := .next (setupRun 4 s)

/-- LEN5 (R114, R273). -/
def execLen5 (s : State) : Host.Outcome State Fault Refusal := .next (setupRun 5 s)

/-- LEN6_13 (R114, R273). -/
def execLen6to13 (x : BitVec 3) (s : State) : Host.Outcome State Fault Refusal := .next (setupRun (midLength x) s)

/-- LEN14_269 (R114, R273). -/
def execLen14to269 (x : Byte) (s : State) : Host.Outcome State Fault Refusal := .next (setupRun (byteLength x) s)

end Sys2Proof.Machine
end

