-- ==== Sys2Proof/Machine/Mode2.lean ====
section
/-! DEFINITION. The meanings of the mode-2 chunk start, flag word and tokens (43_mode2_decode R260 to R272). The operands were read by
the reader of Fetch.lean, in stream order (R361); a back-reference token leaves its distance in `DIST` and hands on to the length code
(R267 to R269: `setup_run`), which LengthCodes.lean executes. -/

namespace Sys2Proof.Machine

/-- M2_CHUNK_START (R260, R261): the method byte, then the first flag group. `RUN` is 0 and `LO`, `BR`, `DIST` hold no value at the
start of a chunk (10_state R36): free values (log 7). -/
def execM2ChunkStart (method : Byte) (g : Option Byte) (s : State) : Host.Outcome State Fault Refusal :=
  if method ≠ 0 then .next (raise .unsupportedMethod s)
  else
    match g with
    | none => .next (raise .outOfData s)
    | some v =>
      .next { s with
        m2d := loadFirstGroup v
          { s.m2d with OFF := 2, OPOS := 0, RUN := 0, LO := Config.freeLo s.fresh, BR := Config.freeBr s.fresh,
                       DIST := Config.freeDist s.fresh, tok := [] }
        phase := .m2Token
        fresh := s.fresh + 1 }

/-- M2_FLAG_WORD (R262). -/
def execM2FlagWord (w : BitVec 16) (s : State) : Host.Outcome State Fault Refusal :=
  .next { s with m2d := loadFlagWord w s.m2d }

/-- Write `c` `k` times to SCRATCH at `OPOS`, or `Overflow` before any of it when it does not fit (R275). -/
def fillScratch (c : Byte) (k : Nat) (s : State) : State :=
  if Config.m2Scratch < s.m2d.OPOS.toNat + k then raise .overflow s
  else
    { s with
      SCRATCH := s.SCRATCH.setAll s.m2d.OPOS.toNat (List.replicate k c)
      m2d := { s.m2d with OPOS := s.m2d.OPOS + BitVec.ofNat 17 k } }

/-- `setup_run(distance)` begins (R267 to R269): the distance is held and the length code is read next. -/
def beginRun (d : BitVec 13) (s : State) : State :=
  { s with m2d := { s.m2d with DIST := d }, phase := .m2Length }

/-- M2_LIT (R266): the byte was read; `Overflow` at a full SCRATCH. -/
def execM2Lit (c : Byte) (s : State) : Host.Outcome State Fault Refusal := .next (fillScratch c 1 s)

/-- M2_SREF (R267). -/
def execM2Sref (d : Byte) (s : State) : Host.Outcome State Fault Refusal := .next (beginRun (byteDistance d) s)

/-- M2_LREF (R268): `RUN` holds the five flag bits and `LO` the byte. -/
def execM2Lref (h : BitVec 5) (lo : Byte) (s : State) : Host.Outcome State Fault Refusal :=
  .next (beginRun (lrefDistance h lo) { s with m2d := { s.m2d with RUN := h.setWidth 13, LO := lo } })

/-- M2_AREF (R269): `RUN` is 0 here. -/
def execM2Aref (lo : Byte) (s : State) : Host.Outcome State Fault Refusal :=
  .next (beginRun (byteDistance lo) { s with m2d := { s.m2d with RUN := 0, LO := lo } })

/-- M2_END (R270, R276): the token loop ends; `produced` is `OPOS` and `used` is `OFF`. -/
def execM2End (s : State) : Host.Outcome State Fault Refusal :=
  .next { s with m2d := { s.m2d with RUN := 0, LO := 0 }, phase := .m2CopyOut }

/-- The common end of the repeats (R272): `LO`, `BR` and `RUN` hold what was read and folded, then the bytes are written. -/
def repeatByte (lo : Byte) (br : BitVec 1) (count : Nat) (c : Byte) (s : State) : State :=
  fillScratch c count { s with m2d := { s.m2d with LO := lo, BR := br, RUN := BitVec.ofNat 13 count } }

/-- M2_RPTS (R271, R272). -/
def execM2Rpts (lo : Byte) (v : BitVec 4) (c : Byte) (s : State) : Host.Outcome State Fault Refusal :=
  .next (repeatByte lo 0 (shortCount v) c s)

/-- M2_RPTL (R271, R272). -/
def execM2Rptl (lo : Byte) (v : BitVec 4) (x c : Byte) (s : State) : Host.Outcome State Fault Refusal :=
  .next (repeatByte lo 1 (longCount v x) c s)

end Sys2Proof.Machine
end

