-- ==== Sys2Proof/Machine/Mode3.lean ====
section
/-! DEFINITION. The meanings of the mode-3 tokens (41_mode3_decode R201 to R209). Each begins with the control pair fetch of R201. -/

namespace Sys2Proof.Machine

/-- The control pair fetch (R201): `A`, `B`, and `IP` past the pair. -/
def m3ControlPair (a b : Byte) (s : State) : State :=
  { s with m3d := { s.m3d with A := a, B := b, IP := s.m3d.IP + 2 } }

/-- Write `bs` at the output cursor, with `IP` moved on by `used` (R203, R204). -/
def m3Emit (bs : List Byte) (used : Nat) (s : State) : State :=
  { s with
    OUT := s.OUT.setAll (s.m3d.BASE + s.m3d.OP) bs
    m3d := { s.m3d with IP := s.m3d.IP + BitVec.ofNat 32 used, OP := s.m3d.OP + bs.length } }

/-- The copy of an M3_REF: `n` bytes from distance `d` (R204, R205). -/
def m3Copy (d n : Nat) (s : State) : State :=
  { s with
    OUT := copyBack d n (s.m3d.BASE + s.m3d.OP) s.OUT
    m3d := { s.m3d with OP := s.m3d.OP + n } }

/-- M3_LIT (R203): `TruncatedInput` when fewer than `n` bytes follow, and then none is written (R200). -/
def execM3Lit (n : Byte) (data : List Byte) (s : State) : Host.Outcome State Fault Refusal :=
  let s1 := m3ControlPair 0 n s
  if data.length < n.toNat then .next (raise .truncatedInput s1)
  else .next (m3Emit data data.length s1)

/-- M3_REF (R204, R206): `BadDistance` before any byte is copied, `TruncatedInput` of a missing literal after the copy (R361). A state
whose segment output does not end where OUT ends stops the model (log 17). -/
def execM3Ref (a b : Byte) (c : Option Byte) (s : State) : Host.Outcome State Fault Refusal :=
  let s1 := m3ControlPair a b s
  if s.m3d.OP < m3Distance b then .next (raise .badDistance s1)
  else if s.OUT.len < s.m3d.BASE + s.m3d.OP then .fault .outsideSpace
  else
    let s2 := m3Copy (m3Distance b) a.toNat s1
    match c with
    | none => .next (raise .truncatedInput s2)
    | some v => .next (m3Emit [v] 1 s2)

end Sys2Proof.Machine
end

