-- ==== Sys2Proof/Machine/Dispatch.lean ====
section
/-! DEFINITION. exec: one arm per instruction, each one call of its meaning. -/

namespace Sys2Proof.Machine

def exec (i : Instr) (s : State) : Host.Outcome State Fault Refusal :=
  match i with
  | .m3Lit n data => Sys2Proof.Machine.execM3Lit n data s
  | .m3Ref a b c => Sys2Proof.Machine.execM3Ref a b c s
  | .m2Lit c => Sys2Proof.Machine.execM2Lit c s
  | .m2Sref d => Sys2Proof.Machine.execM2Sref d s
  | .m2Lref h lo => Sys2Proof.Machine.execM2Lref h lo s
  | .m2Aref lo => Sys2Proof.Machine.execM2Aref lo s
  | .m2End => Sys2Proof.Machine.execM2End s
  | .m2Rpts lo v c => Sys2Proof.Machine.execM2Rpts lo v c s
  | .m2Rptl lo v x c => Sys2Proof.Machine.execM2Rptl lo v x c s
  | .len2 => Sys2Proof.Machine.execLen2 s
  | .len3 => Sys2Proof.Machine.execLen3 s
  | .len4 => Sys2Proof.Machine.execLen4 s
  | .len5 => Sys2Proof.Machine.execLen5 s
  | .len6to13 x => Sys2Proof.Machine.execLen6to13 x s
  | .len14to269 x => Sys2Proof.Machine.execLen14to269 x s
  | .m2ChunkStart method g => Sys2Proof.Machine.execM2ChunkStart method g s
  | .m2FlagWord w => Sys2Proof.Machine.execM2FlagWord w s
  | .m3ContainerHeader flag nb cs maxrec us => Sys2Proof.Machine.execM3ContainerHeader flag nb cs maxrec us s
  | .m3BlockRecord bs ubs bt payload => Sys2Proof.Machine.execM3BlockRecord bs ubs bt payload s
  | .m2ContainerHeader cs us nb sub => Sys2Proof.Machine.execM2ContainerHeader cs us nb sub s
  | .m2ChunkRecord bs chunk cont => Sys2Proof.Machine.execM2ChunkRecord bs chunk cont s

end Sys2Proof.Machine
end

