-- ==== Sys2Proof/Machine/Fetch.lean ====
section
/-! DEFINITION. Fetching: the decoder is given what stands at the engine's cursor, and the instruction it reads is executed. A read that
comes back short raises the error the reading rule names (20_memory R71, R72). Mode 2 reads one flag bit, one byte or one flag word at a
time (43_mode2_decode R262 to R265). -/

namespace Sys2Proof.Machine

/-- Execute what the decoder read; a short read raises `short`. -/
def runFetched (short : ErrorKind) (t : Take Instr) (s : State) : Host.Outcome State Fault Refusal :=
  match t with
  | .ok i _ => exec i s
  | .needByte => .next (raise short s)
  | .needFlag => .fault .malformedToken
  | .wrongKind => .fault .malformedToken

/-- The items from `SP` on (20_memory R71). -/
def streamItems (s : State) : List Item := byteItems (s.IN.slice s.SP.toNat s.IN.len)

/-- The container header at `SP` (40_framer R151, R152, R158, R159). -/
def headerStep (s : State) : Host.Outcome State Fault Refusal :=
  runFetched .truncatedInput (decode .container (streamItems s)) s

/-- The block record at `SP` (R153, R154). -/
def m3RecordStep (s : State) : Host.Outcome State Fault Refusal :=
  runFetched .truncatedInput (decode .m3Record (streamItems s)) s

/-- The items of the segment from `IP` on, as many as a token can have (41_mode3_decode R200). -/
def segmentItems (s : State) : List Item := byteItems (s.SEG.slice s.m3d.IP.toNat longestToken)

/-- One turn of the segment loop (R200, R207): at the end of the segment on to the next record, else one token. -/
def m3TokenStep (s : State) : Host.Outcome State Fault Refusal :=
  if s.SEG.len ≤ s.m3d.IP.toNat then .next (nextRecord s)
  else runFetched .truncatedInput (decode .m3Token (segmentItems s)) s

/-- The chunk record at the cursor of SUB (40_framer R160). -/
def m2ChunkStep (s : State) : Host.Outcome State Fault Refusal :=
  runFetched .truncatedInput (decode .m2Chunk (byteItems (s.SUB.slice s.SUBPOS s.SUB.len))) s

/-- The start of the chunk (43_mode2_decode R260: no byte is `TruncatedInput`). -/
def m2StartStep (s : State) : Host.Outcome State Fault Refusal :=
  runFetched .truncatedInput (decode .m2Start (byteItems (s.CHUNK.slice 0 2))) s

/-- `read_bit()` (R262): with no bit left the flag word at `OFF` is fetched and executed, `OutOfData` when it is short; else the bit is
taken. -/
def readFlag (s : State) : Host.Outcome State Fault Refusal :=
  if s.m2d.NBITS = 0 then
    runFetched .outOfData (decode .m2FlagWord (byteItems (s.CHUNK.slice s.m2d.OFF.toNat 2))) s
  else .next { s with m2d := takeFlagBit s.m2d }

/-- `read_byte()` (R264): `OutOfData` when no byte is left. -/
def readByte (s : State) : Host.Outcome State Fault Refusal :=
  match s.CHUNK.slice s.m2d.OFF.toNat 1 with
  | [] => .next (raise .outOfData s)
  | v :: _ => .next { s with m2d := takeStreamByte v s.m2d }

/-- One step of the mode-2 reader in the place `c` (R265, R273): read what the token still needs, or execute the token once it is whole. -/
def m2ReadStep (c : Ctx) (s : State) : Host.Outcome State Fault Refusal :=
  match decode c s.m2d.tok with
  | .ok i _ => exec i { s with m2d := { s.m2d with tok := [] } }
  | .needFlag => readFlag s
  | .needByte => readByte s
  | .wrongKind => .fault .malformedToken

/-! ## The decoders as functions of a payload: what the conformance rules R236 and R313 ask of an encoder's output -/

/-- The segment loop run to its end, at most `k` steps; none when it stops or does not end. -/
def m3Loop : Nat → State → Option State
  | 0, _ => none
  | k + 1, s =>
    if s.phase = .m3Token then
      match m3TokenStep s with
      | .next t => m3Loop k t
      | .fault _ => none
      | .refused _ => none
    else some s

/-- The output of `M3Decode(z)` (41_mode3_decode R200); none when it raises an error. The machine's own segment loop, run on a container of
one segment. A payload of 2^32 bytes or more gives none: the 32-bit `IP` of 10_state R34 cannot come to its end, and the spec does not say
whether R200 accepts it. DESIGN CHOICE, log 10. -/
def decodeM3Payload (z : List Byte) : Option (List Byte) :=
  match m3Loop (z.length + 2)
      { State.reset with
        STATE := .busy, phase := .m3Token, SEG := Space.ofList z, fr := { FramerRegs.zero with NB := 1 } } with
  | some t => if t.STATE = .done then some t.OUT.toList else none
  | none => none

/-- One step of the decoding of a chunk. -/
def m2DecodeStep (s : State) : Host.Outcome State Fault Refusal :=
  match s.phase with
  | .m2Start => m2StartStep s
  | .m2Token => m2ReadStep .m2Token s
  | _ => m2ReadStep .m2Length s

/-- The decoding of a chunk run until M2_END or an error, at most `k` steps. -/
def m2Loop : Nat → State → Option State
  | 0, _ => none
  | k + 1, s =>
    if s.phase = .m2Start ∨ s.phase = .m2Token ∨ s.phase = .m2Length then
      match m2DecodeStep s with
      | .next t => m2Loop k t
      | .fault _ => none
      | .refused _ => none
    else some s

/-- The output of `M2Decode(z)` (43_mode2_decode R260, R276); none when it raises an error. The machine's own chunk decoding; every step
reads a bit, a byte or a flag word or executes a token, so 32 steps a byte are enough (R277). -/
def decodeM2Payload (z : List Byte) : Option (List Byte) :=
  match m2Loop (32 * (z.length + 2))
      { State.reset with STATE := .busy, phase := .m2Start, CHUNK := Space.ofList z } with
  | some t => if t.phase = .m2CopyOut then some (t.SCRATCH.slice 0 t.m2d.OPOS.toNat) else none
  | none => none

end Sys2Proof.Machine
end

