-- ==== Sys2Proof/Machine/M3Encode.lean ====
section
/-! DEFINITION. ENCODE in mode 3: the match finder and token encoder of 42_mode3_encode, and the container of 40_framer R171 to R176. -/

namespace Sys2Proof.Machine

/-! ## The reference algorithm (R231 to R235) -/

/-- The pattern `S[W-L : W]` repeated `k` times stands at `W`, fits one M3_REF, and leaves a byte for the coupled literal (R232). -/
def repeatFits (S : List Byte) (W L k : Nat) : Bool :=
  L * k ≤ Config.m3RunMax && W + L * k + 1 ≤ S.length &&
    (List.range (L * k)).all fun j => S.getD (W + j) 0 == S.getD (W - L + j % L) 0

/-- The largest number from 1 to `n` that `p` holds of, or 0. -/
def largest (p : Nat → Bool) : Nat → Nat
  | 0 => 0
  | k + 1 => if p (k + 1) then k + 1 else largest p k

/-- `k` of R232 for the pattern length `L`. -/
def repeatCount (S : List Byte) (W L : Nat) : Nat := largest (repeatFits S W L) (Config.m3RunMax / L)

/-- `best_match(W)` (R232): (`BESTLEN`, `BESTL`). Strictly longer wins, so ties keep the smaller `L`. -/
def bestMatch (S : List Byte) (W : Nat) : Nat × Nat :=
  (List.range' 1 (min W 255)).foldl
    (fun best L => if best.1 < L * repeatCount S W L then (L * repeatCount S W L, L) else best) (0, 0)

/-- `flush(lo, hi)` (R235). -/
def m3Flush (S : List Byte) (lo hi : Nat) : List Byte :=
  if lo < hi then encodeBytes (.m3Lit (BitVec.ofNat 8 (hi - lo)) ((S.drop lo).take (hi - lo))) else []

/-- The registers at the start of a segment (10_state R38, 42_mode3_encode R231). -/
def m3ScanStart : M3EncRegs := { W := 0, LIT := 0, BESTLEN := 0, BESTL := 0, z := [] }

/-- One turn of the scan (R231, R233). -/
def m3ScanTurn (S : List Byte) (r : M3EncRegs) : M3EncRegs :=
  let best := bestMatch S r.W
  let r1 := { r with BESTLEN := best.1, BESTL := best.2 }
  if 2 ≤ best.1 then
    { r1 with
      W := r.W + best.1 + 1
      LIT := r.W + best.1 + 1
      z := r.z ++ m3Flush S r.LIT r.W ++
        encodeBytes (.m3Ref (BitVec.ofNat 8 best.1) (BitVec.ofNat 8 (best.2 - 1)) (some (S.getD (r.W + best.1) 0))) }
  else if r.W + 1 - r.LIT = Config.m3RunMax then
    { r1 with W := r.W + 1, LIT := r.W + 1, z := r.z ++ m3Flush S r.LIT (r.W + 1) }
  else { r1 with W := r.W + 1 }

/-- The payload at the end of the segment (R234). -/
def m3ScanEnd (S : List Byte) (r : M3EncRegs) : List Byte := r.z ++ m3Flush S r.LIT S.length

/-! ## The segments -/

/-- How many segments a buffer of `n` bytes has (40_framer R171, R173). -/
def m3SegmentCount (n : Nat) : Nat :=
  if n = 0 then 1 else (n + (Config.m3SegmentSize - 1)) / Config.m3SegmentSize

/-- The segment being encoded: the one after those in `recs` (R171). -/
def m3Segment (s : State) : List Byte :=
  s.IN.slice (s.recs.length * Config.m3SegmentSize) Config.m3SegmentSize

/-- A segment is done: its record is kept, and the next one is split off. -/
def keepRec (r : Rec) (next : Phase) (s : State) : State := { s with recs := s.recs ++ [r], phase := next }

/-- The scan of a segment begins (10_state R38). -/
def m3StartScan (s : State) : State := { s with m3e := m3ScanStart, phase := .m3Scan }

/-- The container header (R171), or `SegmentTooLarge` when a field does not fit 32 bits (R175). -/
def m3WriteHeader (s : State) : State :=
  let cs : Nat := (s.recs.map fun r => r.z.length + 12).sum
  let maxrec : Nat := (s.recs.map fun r => r.z.length + 12).foldl max 0
  if 2 ^ 32 ≤ s.IN.len ∨ 2 ^ 32 ≤ cs ∨ 2 ^ 32 ≤ maxrec ∨ 2 ^ 32 ≤ s.recs.length
      ∨ (s.recs.any fun r => decide (2 ^ 32 ≤ r.z.length + 4)) = true then
    raise .segmentTooLarge s
  else
    let fr := { s.fr with
      FLAG := Config.m3FlagWord, NB := BitVec.ofNat 32 s.recs.length, CS := BitVec.ofNat 32 cs,
      MAXREC := BitVec.ofNat 32 maxrec, US := BitVec.ofNat 32 s.IN.len, SEGIDX := 0 }
    { s with
      fr := fr
      OUT := Space.ofList (encodeBytes (.m3ContainerHeader fr.FLAG fr.NB fr.CS fr.MAXREC fr.US))
      phase := .m3Write }

/-- The next segment (R171, 42_mode3_encode R230): stored when short; else token-coded, by the reference algorithm or, under ANY_CONFORMING,
with a free payload that decodes to the segment (R236, log 10: one below 2^32 bytes); after the last segment the header. -/
def m3SplitStep (s : State) : State :=
  if s.recs.length < m3SegmentCount s.IN.len then
    let S := m3Segment s
    let s1 := { s with fr := { s.fr with SEGIDX := BitVec.ofNat 32 s.recs.length } }
    if S.length ≤ Config.m3RawMax then keepRec { ulen := S.length, bt := Config.m3StoredType, z := S } .m3Split s1
    else
      match s.policy with
      | .reference => m3StartScan s1
      | .anyConforming =>
        let z := Config.freeM3Payload s.fresh S
        let s2 := { s1 with fresh := s.fresh + 1 }
        if decodeM3Payload z = some S then
          keepRec { ulen := S.length, bt := Config.m3TypeCompressed, z := z } .m3Split s2
        else m3StartScan s2
  else m3WriteHeader s

/-- One turn of the scan, or the end of the segment (R231, R234). -/
def m3ScanStep (s : State) : State :=
  let S := m3Segment s
  if s.m3e.W < S.length then { s with m3e := m3ScanTurn S s.m3e }
  else
    keepRec { ulen := S.length, bt := Config.m3TypeCompressed, z := m3ScanEnd S s.m3e } .m3Split
      { s with m3e := { s.m3e with z := m3ScanEnd S s.m3e } }

/-- The record `SEGIDX` (40_framer R172), and the end of the command after the last. -/
def m3WriteStep (s : State) : State :=
  match s.recs[s.fr.SEGIDX.toNat]? with
  | none => finish s
  | some r =>
    let fr := { s.fr with BS := BitVec.ofNat 32 (r.z.length + 4), UBS := BitVec.ofNat 32 r.ulen, BT := r.bt }
    let s1 := { s with fr := fr, OUT := s.OUT.setAll s.OUT.len (encodeBytes (.m3BlockRecord fr.BS fr.UBS fr.BT r.z)) }
    if s.fr.SEGIDX.toNat + 1 < s.recs.length then { s1 with fr := { fr with SEGIDX := s.fr.SEGIDX + 1 } }
    else finish s1

end Sys2Proof.Machine
end

