-- ==== Sys2Proof/Machine/M2Encode.lean ====
section
/-! DEFINITION. ENCODE in mode 2: the bit writer, the hash-chain match finder and the token encoder of 44_mode2_encode, and the container
of 40_framer R180 to R186. -/

namespace Sys2Proof.Machine

/-! ## Bit writer (R300, R301) -/

/-- `put_bit(b)` (R300): a new 16-bit group is reserved when the open one is full. -/
def putFlag (b : Bool) (r : M2EncRegs) : M2EncRegs :=
  let r1 := if r.GN = r.GCAP then { r with GPOS := r.z.length, z := r.z ++ [0, 0], GCAP := 16, GN := 0 } else r
  let i := r1.GPOS + r1.GN / 8
  { r1 with z := if b then r1.z.set i (r1.z.getD i 0 ||| (1 <<< (r1.GN % 8))) else r1.z, GN := r1.GN + 1 }

/-- `put_byte(v)` (R301). -/
def putByte (v : Byte) (r : M2EncRegs) : M2EncRegs := { r with z := r.z ++ [v] }

/-- One item of a token. -/
def putItem (r : M2EncRegs) : Item → M2EncRegs
  | .flag b => putFlag b r
  | .byte v => putByte v r

/-- The items of a token in stream order. -/
def putItems (xs : List Item) (r : M2EncRegs) : M2EncRegs := xs.foldl putItem r

/-! ## Match finding (R303 to R305) -/

/-- How many first bytes two sequences have in common. -/
def commonStart : List Byte → List Byte → Nat
  | a :: x, b :: y => if a = b then commonStart x y + 1 else 0
  | _, _ => 0

/-- `run_length(pos)` (R303): the run of equal bytes at `pos`, at most 0xFFE. -/
def runLength (S : List Byte) (pos : Nat) : Nat :=
  (((S.drop pos).take Config.m2RunMax).takeWhile fun v => v == S.getD pos 0).length

/-- The length of the match of distance `d` at `pos` (R304): at most 267, not past the end of the chunk, overlap allowed. -/
def matchLength (S : List Byte) (pos d : Nat) : Nat :=
  commonStart ((S.drop pos).take Config.m2MatchMax) (S.drop (pos - d))

/-- `longest_match(pos)` (R304): (`BL`, `BD`). Nearest candidate first, strictly longer wins. -/
def longestMatch (S : List Byte) (pos : Nat) : Nat × Nat :=
  (List.range' 1 (min pos Config.m2Window)).foldl
    (fun best d => if best.1 < matchLength S pos d then (matchLength S pos d, d) else best) (1, 0)

/-- The entry of a table, if it is not empty. -/
def tableGet : List (Nat × Nat) → Nat → Option Nat
  | [], _ => none
  | e :: r, k => if e.1 = k then some e.2 else tableGet r k

/-- The table with one entry made `v`, empty for none; keys stay in rising order. -/
def tableSet : List (Nat × Nat) → Nat → Option Nat → List (Nat × Nat)
  | [], k, v => match v with
    | none => []
    | some p => [(k, p)]
  | e :: r, k, v =>
    if k < e.1 then (match v with
      | none => e :: r
      | some p => (k, p) :: e :: r)
    else if k = e.1 then (match v with
      | none => r
      | some p => (k, p) :: r)
    else e :: tableSet r k v

/-- The digraph key of position `p` (10_state R39). The spec leaves the formula free (R40); this one is injective (log 22). -/
def digraphKey (S : List Byte) (p : Nat) : Nat := (S.getD p 0).toNat + 256 * (S.getD (p + 1) 0).toNat

/-- Enter position `p` into the hash chain (R305): `NEXT` takes the previous position of the digraph, `HEAD` takes `p`. -/
def hashInsert (S : List Byte) (p : Nat) (r : M2EncRegs) : M2EncRegs :=
  if p + 1 < S.length then
    { r with
      NEXT := tableSet r.NEXT (p % Config.m2Chain) (tableGet r.HEAD (digraphKey S p))
      HEAD := tableSet r.HEAD (digraphKey S p) (some p) }
  else r

/-- Enter `n` positions from `p` on. -/
def hashInsertAll (S : List Byte) : Nat → Nat → M2EncRegs → M2EncRegs
  | 0, _, r => r
  | n + 1, p, r => hashInsertAll S n (p + 1) (hashInsert S p r)

/-- Walk a chain from newest to oldest (R305): an evicted position, below `pos - 0x1FFF`, ends it. -/
def chainWalk (S : List Byte) (pos : Nat) (next : List (Nat × Nat)) : Nat → Option Nat → Nat × Nat → Nat × Nat
  | 0, _, best => best
  | _ + 1, none, best => best
  | k + 1, some p, best =>
    if p < pos - Config.m2Window then best
    else
      chainWalk S pos next k (tableGet next (p % Config.m2Chain))
        (if best.1 < matchLength S pos (pos - p) then (matchLength S pos (pos - p), pos - p) else best)

/-- The match the hash chain finds at `pos` (R305). R304 is the definition of the match and `longestMatch` is what the encoder uses; this is
the realisation R305 says finds the same (R40). -/
def chainMatch (S : List Byte) (pos : Nat) (r : M2EncRegs) : Nat × Nat :=
  if pos + 1 < S.length then chainWalk S pos r.NEXT Config.m2Chain (tableGet r.HEAD (digraphKey S pos)) (1, 0) else (1, 0)

/-! ## Tokens (R306 to R311) -/

/-- The length code of a copy (R309). -/
def lengthCode (n : Nat) : Instr :=
  if n = 2 then .len2
  else if n = 3 then .len3
  else if n = 4 then .len4
  else if n = 5 then .len5
  else if n ≤ 13 then .len6to13 (BitVec.ofNat 3 (n - 6))
  else .len14to269 (BitVec.ofNat 8 (n - 14))

/-- `REF(d, n)` (R308): the short form for a distance of one byte; never M2_AREF. -/
def refItems (d n : Nat) : List Item :=
  encode (if d ≤ 255 then .m2Sref (BitVec.ofNat 8 d) else .m2Lref (BitVec.ofNat 5 (d / 256)) (BitVec.ofNat 8 (d % 256)))
    ++ encode (lengthCode n)

/-- `RPT(c, k)` (R310), with `lo` 1. -/
def rptItems (c : Byte) (k : Nat) : List Item :=
  encode (if k - 14 < 16 then .m2Rpts 1 (BitVec.ofNat 4 (k - 14)) c
    else .m2Rptl 1 (BitVec.ofNat 4 ((k - 14) / 256)) (BitVec.ofNat 8 ((k - 14) % 256)) c)

/-- The token chosen at `pos` and how many bytes it covers (R306). -/
def chooseToken (S : List Byte) (pos rlen bl bd : Nat) : List Item × Nat :=
  if Config.m2RunMin ≤ rlen ∧ bl < rlen then (rptItems (S.getD pos 0) rlen, rlen)
  else if 2 ≤ bl then (refItems bd bl, bl)
  else (encode (.m2Lit (S.getD pos 0)), 1)

/-- The registers at the start of a chunk (10_state R39, R300): the method byte and the empty first group. R39 calls the
contents of `NEXT` irrelevant here: it keeps what it held (log 22). R39 gives `RLEN`, `BL` and `BD` no value here: this function leaves them,
and `m2StartScan` gives them free values (log 7). -/
def m2ScanStart (r : M2EncRegs) : M2EncRegs :=
  { r with POS := 0, GPOS := 1, GCAP := 8, GN := 0, HEAD := [], z := [0, 0] }

/-- One turn of the scan (R302): the candidates, the token, and the positions it covers entered into the hash chain. -/
def m2ScanTurn (S : List Byte) (r : M2EncRegs) : M2EncRegs :=
  let best := longestMatch S r.POS
  let t := chooseToken S r.POS (runLength S r.POS) best.1 best.2
  let r1 := { r with RLEN := runLength S r.POS, BL := best.1, BD := best.2 }
  { hashInsertAll S t.2 r.POS (putItems t.1 r1) with POS := r.POS + t.2 }

/-- M2_END at the end of the chunk (R311). -/
def m2ScanEnd (r : M2EncRegs) : M2EncRegs := putItems (encode .m2End) r

/-! ## The chunks -/

/-- How many chunks a buffer of `n` bytes has (40_framer R180, R183). -/
def m2ChunkCount (n : Nat) : Nat := (n + (Config.m2ChunkSize - 1)) / Config.m2ChunkSize

/-- The chunk being encoded: the one after those in `recs` (R180). -/
def m2Chunk (s : State) : List Byte := s.IN.slice (s.recs.length * Config.m2ChunkSize) Config.m2ChunkSize

/-- The continuation byte of chunk `k` of `n` (R181). -/
def contByte (k n : Nat) : Byte := if k + 1 < n then 1 else 0

/-- A chunk is encoded: `SegmentTooLarge` when its u16 length cannot hold it (44_mode2_encode R312), else its `BS` and `CONT` (40_framer
R181) and its record. -/
def m2KeepChunk (S z : List Byte) (s : State) : State :=
  if Config.m2OutLimit < z.length + 2 then raise .segmentTooLarge s
  else
    keepRec { ulen := S.length, bt := 0, z := z } .m2Split
      { s with fr := { s.fr with BS := BitVec.ofNat 32 (z.length + 2), CONT := contByte s.recs.length (m2ChunkCount s.IN.len) } }

/-- The chunk records one after the other (R181): chunk `k` and those after it, of `n`. -/
def m2Body (n : Nat) : Nat → List Rec → List Byte
  | _, [] => []
  | k, r :: rs =>
    encodeBytes (.m2ChunkRecord (BitVec.ofNat 16 (r.z.length + 2)) r.z (some (contByte k n))) ++ m2Body n (k + 1) rs

/-- The container (R182, R183), or `SegmentTooLarge` when a field does not fit (R185). -/
def m2WriteContainer (s : State) : State :=
  let body := m2Body s.recs.length 0 s.recs
  if 2 ^ 31 ≤ 8 + body.length ∨ 2 ^ 32 ≤ s.IN.len ∨ 2 ^ 32 ≤ s.recs.length then raise .segmentTooLarge s
  else
    let fr := { s.fr with CS := BitVec.ofNat 32 (8 + body.length), US := BitVec.ofNat 32 s.IN.len, NB := BitVec.ofNat 32 s.recs.length }
    finish { s with fr := fr, OUT := Space.ofList (encodeBytes (.m2ContainerHeader fr.CS fr.US fr.NB body)) }

/-- The scan of a chunk begins; `RLEN`, `BL` and `BD`, to which R39 gives no value here, take free values (log 7). -/
def m2StartScan (s : State) : State :=
  { s with
    m2e := { m2ScanStart s.m2e with RLEN := Config.freeRlen s.fresh, BL := Config.freeBl s.fresh, BD := Config.freeBd s.fresh }
    phase := .m2Scan
    fresh := s.fresh + 1 }

/-- The next chunk (R180, 44_mode2_encode R302): by the reference algorithm or, under ANY_CONFORMING, with a free payload that decodes to the
chunk (R313, log 10); after the last chunk the container. -/
def m2SplitStep (s : State) : State :=
  if s.recs.length < m2ChunkCount s.IN.len then
    let S := m2Chunk s
    let s1 := { s with fr := { s.fr with SEGIDX := BitVec.ofNat 32 s.recs.length } }
    if Config.m2OutLimit ≤ S.length then raise .segmentTooLarge s1
    else
      match s.policy with
      | .reference => m2StartScan s1
      | .anyConforming =>
        let z := Config.freeM2Payload s.fresh S
        let s2 := { s1 with fresh := s.fresh + 1 }
        if z.length + 2 ≤ Config.m2OutLimit ∧ decodeM2Payload z = some S then m2KeepChunk S z s2
        else m2StartScan s2
  else m2WriteContainer s

/-- One turn of the scan, or M2_END and the end of the chunk (R302). -/
def m2ScanStep (s : State) : State :=
  let S := m2Chunk s
  if s.m2e.POS < S.length then { s with m2e := m2ScanTurn S s.m2e }
  else m2KeepChunk S (m2ScanEnd s.m2e).z { s with m2e := m2ScanEnd s.m2e }

end Sys2Proof.Machine
end

