-- ==== Sys2Proof/Machine/Engine.lean ====
section
/-! DEFINITION. One step of the engine: the rule its phase stands at. -/

namespace Sys2Proof.Machine

/-- What a started command runs (10_state R32, 40_framer R150, R170, 60_exceptions R359): `BadCommand` for the reserved command, and for
ENCODE with a mode other than 2 or 3, before anything is read. -/
def dispatchCommand (s : State) : State :=
  match s.CMD with
  | .idle => { s with STATE := .idle, phase := .waiting }
  | .decode => { s with phase := .header }
  | .encode =>
    if s.MODE = 3 then { s with phase := .m3Split }
    else if s.MODE = 2 then { s with phase := .m2Split }
    else raise .badCommand s
  | .reserved => raise .badCommand s

/-- One step of the engine. While no command runs it waits (R364, R390). -/
def engineStep (s : State) : Host.Outcome State Fault Refusal :=
  match s.phase with
  | .waiting => .next s
  | .dispatch => .next (dispatchCommand s)
  | .header => headerStep s
  | .m3Record => m3RecordStep s
  | .m3Token => m3TokenStep s
  | .m2Chunk => m2ChunkStep s
  | .m2Start => m2StartStep s
  | .m2Token => m2ReadStep .m2Token s
  | .m2Length => m2ReadStep .m2Length s
  | .m2CopyOut => .next (copyOut s)
  | .m3Split => .next (m3SplitStep s)
  | .m3Scan => .next (m3ScanStep s)
  | .m3Write => .next (m3WriteStep s)
  | .m2Split => .next (m2SplitStep s)
  | .m2Scan => .next (m2ScanStep s)

/-- The state in which the engine's next step fetches these bytes at a mode-3 token: a segment of exactly these bytes is being decoded. -/
def atSegment (bytes : List Byte) (s : State) : State :=
  { s with STATE := .busy, SEG := Space.ofList bytes, m3d := { s.m3d with IP := 0 }, phase := .m3Token, turns := [] }

end Sys2Proof.Machine
end

