-- ==== Sys2Proof/Machine/Step.lean ====
section
/-! DEFINITION. One step of the machine: the next turn of the schedule, the engine's when none is left (log 1). -/

namespace Sys2Proof.Machine

/-- One step. -/
def step (s : State) : Host.Outcome State Fault Refusal :=
  match s.turns with
  | [] => engineStep s
  | .engine :: r => engineStep { s with turns := r }
  | .host a :: r => hostAct a { s with turns := r }

/-- `s` with the instruction of these table bits where the next step fetches: the machine is inside the decoding of a mode-3 segment that
holds exactly these bytes, and it is the engine's turn (log 12 says how a program comes to run from reset). -/
def State.withFetchWord (s : State) (nbits w : Nat) : State := atSegment (tableBytes nbits w) s

end Sys2Proof.Machine
end

