-- ==== Sys2Proof/Safety.lean ====
section
/-! DEFINITION. What a safe run is: the invariants of the machine, and the words the statements use for an error, for the bytes a write
changes, and for the work left to a decoder. -/

namespace Sys2Proof.Safety

open Sys2Proof.Machine

/-! ## Invariants -/

/-- Every byte space is in its canonical form. -/
abbrev MemoryInv (s : State) : Prop :=
  s.IN.wf = true ∧ s.OUT.wf = true ∧ s.SEG.wf = true ∧ s.SUB.wf = true ∧ s.CHUNK.wf = true ∧ s.SCRATCH.wf = true

/-- STATE, ERR and the engine's phase agree (10_state R31): an error has a code of R351 and only an error has one; the engine is BUSY
exactly while a command runs. -/
abbrev StatusInv (s : State) : Prop :=
  (s.STATE = .error ↔ s.ERR ≠ 0) ∧ s.ERR.toNat ≤ 8 ∧ (s.STATE = .busy ↔ s.phase ≠ .waiting)

/-- Until a container header is read OUT is empty (40_framer R150, 70_reset R391). -/
abbrev StartInv (s : State) : Prop :=
  s.phase = .dispatch ∨ s.phase = .header → s.OUT = Space.zeros 0

/-- SCRATCH is 65536 bytes and `OPOS` lies within it (20_memory R73, 43_mode2_decode R275). -/
abbrev ScratchInv (s : State) : Prop :=
  s.SCRATCH.len = 65536 ∧ s.m2d.OPOS.toNat ≤ 65536

/-- The items held by the mode-2 reader begin a token, or are one, of the place `c` (43_mode2_decode R265). -/
def beginsToken (c : Ctx) (tok : List Item) : Bool :=
  match decode c tok with
  | .ok _ r => r.isEmpty
  | .needFlag => true
  | .needByte => true
  | .wrongKind => false

/-- The engine is inside the decoding of a mode-2 container. -/
abbrev inM2Container (p : Phase) : Prop :=
  p = .m2Chunk ∨ p = .m2Start ∨ p = .m2Token ∨ p = .m2Length ∨ p = .m2CopyOut

/-- The engine is reading a mode-2 token or length code. -/
abbrev inM2Token (p : Phase) : Prop := p = .m2Token ∨ p = .m2Length

/-- Inside a mode-3 container a record is left; inside a segment `IP` lies in it and OUT ends where the segment's output ends
(10_state R35, 41_mode3_decode R200). -/
abbrev Mode3Inv (s : State) : Prop :=
  (s.phase = .m3Record ∨ s.phase = .m3Token → s.fr.SEGIDX.toNat < s.fr.NB.toNat) ∧
  (s.phase = .m3Token → s.m3d.IP.toNat ≤ s.SEG.len ∧ s.SEG.len < 2 ^ 32 ∧ s.m3d.BASE + s.m3d.OP = s.OUT.len)

/-- Inside a mode-2 container OUT has `US` bytes, of which `COFF` are written, and a chunk is left; inside a chunk `OFF` lies in it, and
the reader holds the beginning of a token (40_framer R159, R162; 10_state R36). -/
abbrev Mode2Inv (s : State) : Prop :=
  (inM2Container s.phase →
    s.OUT.len = s.fr.US.toNat ∧ s.fr.COFF.toNat ≤ s.fr.US.toNat ∧ s.fr.SEGIDX.toNat < s.fr.NB.toNat) ∧
  (s.phase = .m2Start → s.CHUNK.len < 2 ^ 16 - 2) ∧
  (inM2Token s.phase → s.CHUNK.len < 2 ^ 16 - 2 ∧ s.m2d.OFF.toNat ≤ s.CHUNK.len ∧ s.m2d.NBITS.toNat ≤ 16) ∧
  (s.phase = .m2Token → beginsToken .m2Token s.m2d.tok = true) ∧
  (s.phase = .m2Length → beginsToken .m2Length s.m2d.tok = true)

/-- The invariant of the machine. -/
abbrev Inv (s : State) : Prop :=
  MemoryInv s ∧ StatusInv s ∧ StartInv s ∧ ScratchInv s ∧ Mode3Inv s ∧ Mode2Inv s

/-! ## Outcomes -/

/-- The step completes with the command ended in this error (60_exceptions R350). -/
def EndsInError (o : Host.Outcome State Fault Refusal) (e : ErrorKind) : Prop :=
  ∃ t, o = .next t ∧ t.STATE = .error ∧ t.ERR = e.code ∧ t.phase = .waiting

/-! ## What a write changes -/

/-- `new` is `old` with `bs` written from `a` on, and every other byte as it was. -/
def Written (old new : Space) (a : Nat) (bs : List Byte) : Prop :=
  (∀ i, i < bs.length → new.get (a + i) = bs.getD i 0) ∧
  ∀ x, x < a ∨ a + bs.length ≤ x → new.get x = old.get x

/-- `new` is `old` with `n` bytes written from `a` on, each the byte the last `d` bytes before `a` repeat (41_mode3_decode R205), and every
other byte as it was. -/
def Copied (old new : Space) (a d n : Nat) : Prop :=
  (∀ i, i < n → new.get (a + i) = old.get (a - d + i % d)) ∧
  ∀ x, x < a ∨ a + n ≤ x → new.get x = old.get x

/-! ## Lengths and work -/

/-- The length a length code stands for (30_encoding R114); 0 for an instruction that is none. -/
def codeLength : Instr → Nat
  | .len2 => 2
  | .len3 => 3
  | .len4 => 4
  | .len5 => 5
  | .len6to13 x => x.toNat + 6
  | .len14to269 x => x.toNat + 14
  | _ => 0

/-- A bound on the steps left to the decoding of a chunk (43_mode2_decode R277): bytes left, flag bits left, items held. -/
def chunkWork (s : State) : Nat :=
  20 * (s.CHUNK.len - s.m2d.OFF.toNat) + 2 * s.m2d.NBITS.toNat + s.m2d.tok.length

/-- The mode-2 reader, started as `r` on the chunk `m`, reads exactly these items when it asks for one after the other
(43_mode2_decode R262, R264). -/
def readsBack (m : Space) : List Item → M2DecRegs → Bool
  | [], _ => true
  | .flag b :: xs, r =>
    if r.NBITS = 0 then
      let r1 := loadFlagWord (m.get (r.OFF.toNat + 1) ++ m.get r.OFF.toNat) r
      r.OFF.toNat + 2 ≤ m.len && r1.FW.getLsbD 0 == b && readsBack m xs (takeFlagBit r1)
    else r.FW.getLsbD 0 == b && readsBack m xs (takeFlagBit r)
  | .byte v :: xs, r => r.OFF.toNat < m.len && m.get r.OFF.toNat == v && readsBack m xs (takeStreamByte v r)

/-- The matches rule R304 allows at `pos`: `len` equal bytes at distance `d`, at most 267 and not past the end of the chunk. -/
def MatchAt (S : List Byte) (pos d len : Nat) : Prop :=
  len ≤ 267 ∧ pos + len ≤ S.length ∧ ∀ j, j < len → S.getD (pos + j) 0 = S.getD (pos + j - d) 0

/-- The repeats rule R232 allows at `W`: `k` copies of the `L` bytes before it, at most 255 bytes, with a byte left for the literal. -/
def RepeatAt (S : List Byte) (W L k : Nat) : Prop :=
  L * k ≤ 255 ∧ W + L * k + 1 ≤ S.length ∧ ∀ j, j < L * k → S.getD (W + j) 0 = S.getD (W - L + j % L) 0

end Sys2Proof.Safety
end

