-- ==== Sys2Proof/Laws/Memory.lean ====
section
/-! SUPPORT. The laws of byte spaces: every operation keeps the canonical form, a read gives what was written, a write leaves every other
byte alone, equal contents are equal data; and what the back-reference copy writes. -/

namespace Sys2Proof.Machine

open Sys2Proof.Safety

/-! ## Cells -/

theorem cellsWf_mono {len len' lo lo' : Nat} {cs : List Host.Cell} (hl : len ≤ len') (hlo : lo' ≤ lo)
    (h : cellsWf len lo cs = true) : cellsWf len' lo' cs = true := by
  induction cs generalizing lo lo' with
  | nil => rfl
  | cons c r ih =>
    simp only [cellsWf, Bool.and_eq_true, decide_eq_true_eq] at h ⊢
    exact ⟨⟨⟨by omega, by omega⟩, h.1.2⟩, ih (Nat.le_refl _) h.2⟩

theorem cellsSet_wf {len lo a : Nat} {b : Byte} {cs : List Host.Cell} (h : cellsWf len lo cs = true)
    (hlo : lo ≤ a) (ha : a < len) : cellsWf len lo (cellsSet cs a b) = true := by
  induction cs generalizing lo with
  | nil =>
    by_cases hb : b = blank
    · simp [cellsSet, hb, cellsWf]
    · simp [cellsSet, hb, cellsWf, hlo, ha]
  | cons c r ih =>
    have h' := h
    simp only [cellsWf, Bool.and_eq_true, decide_eq_true_eq, bne_iff_ne] at h
    obtain ⟨⟨⟨h1, h2⟩, h3⟩, h4⟩ := h
    simp only [cellsSet]
    split
    · split
      · exact h'
      · simp only [cellsWf, Bool.and_eq_true, decide_eq_true_eq, bne_iff_ne]
        exact ⟨⟨⟨hlo, ha⟩, by assumption⟩, ⟨⟨by omega, h2⟩, h3⟩, h4⟩
    · split
      · split
        · exact cellsWf_mono (Nat.le_refl _) (by omega) h4
        · simp only [cellsWf, Bool.and_eq_true, decide_eq_true_eq, bne_iff_ne]
          exact ⟨⟨⟨hlo, ha⟩, by assumption⟩, by subst_vars; exact h4⟩
      · simp only [cellsWf, Bool.and_eq_true, decide_eq_true_eq, bne_iff_ne]
        exact ⟨⟨⟨h1, h2⟩, h3⟩, ih h4 (by omega)⟩

theorem cellsGet_below {len lo a : Nat} {cs : List Host.Cell} (h : cellsWf len lo cs = true) (ha : a < lo) :
    cellsGet cs a = blank := by
  induction cs generalizing lo with
  | nil => rfl
  | cons c r ih =>
    simp only [cellsWf, Bool.and_eq_true, decide_eq_true_eq] at h
    simp only [cellsGet]
    rw [if_neg (by omega)]
    exact ih h.2 (by omega)

theorem cellsGet_beyond {len lo a : Nat} {cs : List Host.Cell} (h : cellsWf len lo cs = true) (ha : len ≤ a) :
    cellsGet cs a = blank := by
  induction cs generalizing lo with
  | nil => rfl
  | cons c r ih =>
    simp only [cellsWf, Bool.and_eq_true, decide_eq_true_eq] at h
    simp only [cellsGet]
    rw [if_neg (by omega)]
    exact ih h.2

theorem cellsGet_set_same {len lo a : Nat} {b : Byte} {cs : List Host.Cell} (h : cellsWf len lo cs = true) :
    cellsGet (cellsSet cs a b) a = b := by
  induction cs generalizing lo with
  | nil => by_cases hb : b = blank <;> simp [cellsSet, hb, cellsGet]
  | cons c r ih =>
    simp only [cellsWf, Bool.and_eq_true, decide_eq_true_eq] at h
    simp only [cellsSet]
    split
    · split
      · rw [‹b = blank›]
        simp only [cellsGet]
        rw [if_neg (by omega)]
        exact cellsGet_below h.2 (by omega)
      · simp [cellsGet]
    · split
      · split
        · rw [‹b = blank›]
          exact cellsGet_below h.2 (by omega)
        · simp [cellsGet]
      · simp only [cellsGet]
        rw [if_neg (by omega)]
        exact ih h.2

theorem cellsGet_set_other {a x : Nat} {b : Byte} (cs : List Host.Cell) (hx : x ≠ a) :
    cellsGet (cellsSet cs a b) x = cellsGet cs x := by
  induction cs with
  | nil =>
    by_cases hb : b = blank
    · simp [cellsSet, hb]
    · simp only [cellsSet, hb, if_false, cellsGet]
      rw [if_neg (by omega)]
  | cons c r ih =>
    simp only [cellsSet]
    split
    · split
      · rfl
      · simp only [cellsGet]
        rw [if_neg (by omega)]
    · split
      · split
        · simp only [cellsGet]
          rw [if_neg (by omega)]
        · simp only [cellsGet]
          rw [if_neg (by omega), if_neg (by omega)]
      · simp only [cellsGet, ih]

theorem cells_ext {len lo : Nat} {cs ds : List Host.Cell} (hc : cellsWf len lo cs = true) (hd : cellsWf len lo ds = true)
    (h : ∀ a, cellsGet cs a = cellsGet ds a) : cs = ds := by
  induction cs generalizing lo ds with
  | nil =>
    cases ds with
    | nil => rfl
    | cons e t =>
      simp only [cellsWf, Bool.and_eq_true, decide_eq_true_eq, bne_iff_ne] at hd
      exact absurd (by simpa [cellsGet] using (h e.1).symm) hd.1.2
  | cons c r ih =>
    cases ds with
    | nil =>
      simp only [cellsWf, Bool.and_eq_true, decide_eq_true_eq, bne_iff_ne] at hc
      exact absurd (by simpa [cellsGet] using h c.1) hc.1.2
    | cons e t =>
      simp only [cellsWf, Bool.and_eq_true, decide_eq_true_eq, bne_iff_ne] at hc hd
      have key : c.1 = e.1 := by
        rcases Nat.lt_trichotomy c.1 e.1 with hlt | heq | hgt
        · have h1 := h c.1
          simp only [cellsGet, if_true] at h1
          rw [if_neg (by omega), cellsGet_below hd.2 (by omega)] at h1
          exact absurd h1 hc.1.2
        · exact heq
        · have h1 := h e.1
          simp only [cellsGet, if_true] at h1
          rw [if_neg (by omega), cellsGet_below hc.2 (by omega)] at h1
          exact absurd h1.symm hd.1.2
      have hv : c.2 = e.2 := by
        have h1 := h c.1
        simpa [cellsGet, key] using h1
      have htail : r = t := by
        refine ih hc.2 (by rw [key]; exact hd.2) fun a => ?_
        by_cases ha : a ≤ c.1
        · rw [cellsGet_below hc.2 (by omega), cellsGet_below hd.2 (by omega)]
        · have h1 := h a
          simp only [cellsGet] at h1
          rwa [if_neg (by omega), if_neg (by omega)] at h1
      rw [htail, Prod.ext key hv]

/-! ## Spaces -/

theorem zeros_wf (n : Nat) : (Space.zeros n).wf = true := rfl

@[simp] theorem zeros_len (n : Nat) : (Space.zeros n).len = n := rfl

@[simp] theorem get_zeros (n a : Nat) : (Space.zeros n).get a = 0 := rfl

@[simp] theorem set_len (m : Space) (a : Nat) (b : Byte) : (m.set a b).len = max m.len (a + 1) := rfl

theorem set_wf {m : Space} (h : m.wf = true) (a : Nat) (b : Byte) : (m.set a b).wf = true :=
  cellsSet_wf (cellsWf_mono (Nat.le_max_left _ _) (Nat.le_refl _) h) (Nat.zero_le _) (by simp [Space.set])

theorem get_set_same {m : Space} (h : m.wf = true) (a : Nat) (b : Byte) : (m.set a b).get a = b :=
  cellsGet_set_same h

theorem get_set_other (m : Space) {a x : Nat} (b : Byte) (hx : x ≠ a) : (m.set a b).get x = m.get x :=
  cellsGet_set_other m.cells hx

theorem get_beyond {m : Space} (h : m.wf = true) {a : Nat} (ha : m.len ≤ a) : m.get a = 0 :=
  cellsGet_beyond h ha

/-- Equal contents are equal data. -/
theorem space_ext {m n : Space} (hm : m.wf = true) (hn : n.wf = true) (hl : m.len = n.len) (h : ∀ a, m.get a = n.get a) :
    m = n := by
  cases m with
  | mk l cs =>
    cases n with
    | mk l' ds =>
      subst hl
      exact congrArg _ (cells_ext hm hn h)

theorem setAll_wf {m : Space} (h : m.wf = true) (a : Nat) (bs : List Byte) : (m.setAll a bs).wf = true := by
  induction bs generalizing m a with
  | nil => exact h
  | cons b r ih => exact ih (set_wf h a b) (a + 1)

theorem setAll_len (m : Space) (a : Nat) (bs : List Byte) :
    (m.setAll a bs).len = if bs = [] then m.len else max m.len (a + bs.length) := by
  induction bs generalizing m a with
  | nil => rfl
  | cons b r ih =>
    simp only [Space.setAll, ih, set_len]
    cases r with
    | nil => simp
    | cons c t =>
      simp only [reduceCtorEq, if_false, List.length_cons]
      omega

/-- A sequence written inside a space or at its end. -/
theorem setAll_len_of_le {m : Space} {a : Nat} (bs : List Byte) (h : a ≤ m.len) :
    (m.setAll a bs).len = max m.len (a + bs.length) := by
  rw [setAll_len]
  split
  · subst_vars; simp; omega
  · rfl

theorem get_setAll_outside (m : Space) (a x : Nat) (bs : List Byte) (hx : x < a ∨ a + bs.length ≤ x) :
    (m.setAll a bs).get x = m.get x := by
  induction bs generalizing m a with
  | nil => rfl
  | cons b r ih =>
    simp only [List.length_cons] at hx
    simp only [Space.setAll]
    rw [ih _ _ (by omega), get_set_other _ _ (by omega)]

theorem get_setAll_inside {m : Space} (h : m.wf = true) (a i : Nat) (bs : List Byte) (hi : i < bs.length) :
    (m.setAll a bs).get (a + i) = bs.getD i 0 := by
  induction bs generalizing m a i with
  | nil => simp at hi
  | cons b r ih =>
    simp only [Space.setAll]
    cases i with
    | zero =>
      rw [get_setAll_outside _ _ _ _ (by omega)]
      simpa using get_set_same h a b
    | succ k =>
      have := ih (set_wf h a b) (a + 1) k (by simpa using hi)
      rw [show a + 1 + k = a + (k + 1) by omega] at this
      simpa using this

/-- What writing a sequence does, said once. -/
theorem setAll_written {m : Space} (h : m.wf = true) (a : Nat) (bs : List Byte) : Written m (m.setAll a bs) a bs :=
  ⟨fun i hi => get_setAll_inside h a i bs hi, fun x hx => get_setAll_outside m a x bs hx⟩

theorem ofList_wf (bs : List Byte) : (Space.ofList bs).wf = true := setAll_wf (zeros_wf 0) 0 bs

@[simp] theorem ofList_len (bs : List Byte) : (Space.ofList bs).len = bs.length := by
  rw [Space.ofList, setAll_len_of_le (a := 0) bs (Nat.zero_le _)]; simp

theorem get_ofList (bs : List Byte) (i : Nat) : (Space.ofList bs).get i = bs.getD i 0 := by
  by_cases h : i < bs.length
  · simpa [Space.ofList] using get_setAll_inside (zeros_wf 0) 0 i bs h
  · rw [get_beyond (ofList_wf bs) (by simpa using h)]
    simp [List.getD_eq_getElem?_getD, List.getElem?_eq_none (by omega : bs.length ≤ i)]

@[simp] theorem slice_length (m : Space) (a n : Nat) : (m.slice a n).length = min n (m.len - a) := by
  simp [Space.slice]

theorem getD_slice {m : Space} {a n i : Nat} (h : i < min n (m.len - a)) : (m.slice a n).getD i 0 = m.get (a + i) := by
  simp [Space.slice, List.getD_eq_getElem?_getD, List.getElem?_map, List.getElem?_range h]

theorem toList_ofList (bs : List Byte) : (Space.ofList bs).toList = bs := by
  apply List.ext_getElem
  · simp [Space.toList]
  · intro i h1 h2
    have h3 : i < min (Space.ofList bs).len ((Space.ofList bs).len - 0) := by simpa [Space.toList] using h1
    have := getD_slice h3
    rw [get_ofList] at this
    simpa [Space.toList, List.getD_eq_getElem?_getD, h1, h2] using this

/-! ## The back-reference copy -/

theorem copyBack_wf {m : Space} (h : m.wf = true) (d k pos : Nat) : (copyBack d k pos m).wf = true := by
  induction k generalizing m pos with
  | zero => exact h
  | succ k ih => exact ih (set_wf h _ _) (pos + 1)

theorem copyBack_len (m : Space) (d k pos : Nat) (h : pos ≤ m.len) : (copyBack d k pos m).len = max m.len (pos + k) := by
  induction k generalizing m pos with
  | zero => simp [copyBack]; omega
  | succ k ih =>
    simp only [copyBack]
    rw [ih _ _ (by simp), set_len]
    omega

theorem get_copyBack_outside (m : Space) (d k pos x : Nat) (hx : x < pos ∨ pos + k ≤ x) :
    (copyBack d k pos m).get x = m.get x := by
  induction k generalizing m pos with
  | zero => rfl
  | succ k ih =>
    simp only [copyBack]
    rw [ih _ _ (by omega), get_set_other _ _ (by omega)]

/-- The recurrence of the copy: each byte is the one `d` places before it in the result. -/
theorem get_copyBack_back {m : Space} (h : m.wf = true) {d k pos x : Nat} (hd : 1 ≤ d) (hp : d ≤ pos)
    (hx : pos ≤ x ∧ x < pos + k) : (copyBack d k pos m).get x = (copyBack d k pos m).get (x - d) := by
  induction k generalizing m pos with
  | zero => omega
  | succ k ih =>
    simp only [copyBack]
    by_cases hxp : x = pos
    · subst hxp
      rw [get_copyBack_outside _ _ _ _ _ (by omega), get_set_same h, get_copyBack_outside _ _ _ _ _ (by omega),
        get_set_other _ _ (by omega)]
    · exact ih (set_wf h _ _) (by omega) (by omega)

/-- What the copy does, said once (41_mode3_decode R205): the last `d` bytes repeated, nothing else changed. -/
theorem copyBack_copied {m : Space} (h : m.wf = true) {d pos : Nat} (k : Nat) (hd : 1 ≤ d) (hp : d ≤ pos) :
    Copied m (copyBack d k pos m) pos d k := by
  refine ⟨fun i hi => ?_, fun x hx => get_copyBack_outside m d k pos x hx⟩
  induction i using Nat.strongRecOn with
  | ind i ih =>
    rw [get_copyBack_back h hd hp ⟨by omega, by omega⟩]
    by_cases hid : i < d
    · rw [get_copyBack_outside _ _ _ _ _ (by omega), Nat.mod_eq_of_lt hid, show pos + i - d = pos - d + i by omega]
    · rw [show pos + i - d = pos + (i - d) by omega, ih (i - d) (by omega) (by omega), ← Nat.mod_eq_sub_mod (by omega)]

end Sys2Proof.Machine
end

