-- ==== Sys2Proof/Laws/State.lean ====
section
/-! SUPPORT. The fields of the state after each named update: one lemma a field, so that no later proof unfolds a record update. -/

namespace Sys2Proof.Machine

/-! ## raise -/

@[simp] theorem raise_CMD (e : ErrorKind) (s : State) : (raise e s).CMD = s.CMD := rfl

@[simp] theorem raise_MODE (e : ErrorKind) (s : State) : (raise e s).MODE = s.MODE := rfl

@[simp] theorem raise_STATE (e : ErrorKind) (s : State) : (raise e s).STATE = .error := rfl

@[simp] theorem raise_ERR (e : ErrorKind) (s : State) : (raise e s).ERR = e.code := rfl

@[simp] theorem raise_SP (e : ErrorKind) (s : State) : (raise e s).SP = Config.freeSp s.fresh := rfl

@[simp] theorem raise_OUTLEN (e : ErrorKind) (s : State) : (raise e s).OUTLEN = Config.freeOutlen s.fresh := rfl

@[simp] theorem raise_IN (e : ErrorKind) (s : State) : (raise e s).IN = s.IN := rfl

@[simp] theorem raise_OUT (e : ErrorKind) (s : State) : (raise e s).OUT = Space.ofList (Config.freeOut s.fresh) := rfl

@[simp] theorem raise_SEG (e : ErrorKind) (s : State) : (raise e s).SEG = s.SEG := rfl

@[simp] theorem raise_SUB (e : ErrorKind) (s : State) : (raise e s).SUB = s.SUB := rfl

@[simp] theorem raise_SUBPOS (e : ErrorKind) (s : State) : (raise e s).SUBPOS = s.SUBPOS := rfl

@[simp] theorem raise_CHUNK (e : ErrorKind) (s : State) : (raise e s).CHUNK = s.CHUNK := rfl

@[simp] theorem raise_SCRATCH (e : ErrorKind) (s : State) : (raise e s).SCRATCH = s.SCRATCH := rfl

@[simp] theorem raise_fr (e : ErrorKind) (s : State) : (raise e s).fr = s.fr := rfl

@[simp] theorem raise_m3d (e : ErrorKind) (s : State) : (raise e s).m3d = s.m3d := rfl

@[simp] theorem raise_m2d (e : ErrorKind) (s : State) : (raise e s).m2d = s.m2d := rfl

@[simp] theorem raise_m3e (e : ErrorKind) (s : State) : (raise e s).m3e = s.m3e := rfl

@[simp] theorem raise_m2e (e : ErrorKind) (s : State) : (raise e s).m2e = s.m2e := rfl

@[simp] theorem raise_recs (e : ErrorKind) (s : State) : (raise e s).recs = s.recs := rfl

@[simp] theorem raise_phase (e : ErrorKind) (s : State) : (raise e s).phase = .waiting := rfl

@[simp] theorem raise_turns (e : ErrorKind) (s : State) : (raise e s).turns = s.turns := rfl

@[simp] theorem raise_policy (e : ErrorKind) (s : State) : (raise e s).policy = s.policy := rfl

@[simp] theorem raise_fresh (e : ErrorKind) (s : State) : (raise e s).fresh = s.fresh + 1 := rfl

/-! ## advanceSp -/

@[simp] theorem advanceSp_CMD (n : Nat) (s : State) : (advanceSp n s).CMD = s.CMD := by
  unfold advanceSp; split <;> rfl

@[simp] theorem advanceSp_MODE (n : Nat) (s : State) : (advanceSp n s).MODE = s.MODE := by
  unfold advanceSp; split <;> rfl

@[simp] theorem advanceSp_STATE (n : Nat) (s : State) : (advanceSp n s).STATE = s.STATE := by
  unfold advanceSp; split <;> rfl

@[simp] theorem advanceSp_ERR (n : Nat) (s : State) : (advanceSp n s).ERR = s.ERR := by
  unfold advanceSp; split <;> rfl

@[simp] theorem advanceSp_OUTLEN (n : Nat) (s : State) : (advanceSp n s).OUTLEN = s.OUTLEN := by
  unfold advanceSp; split <;> rfl

@[simp] theorem advanceSp_IN (n : Nat) (s : State) : (advanceSp n s).IN = s.IN := by
  unfold advanceSp; split <;> rfl

@[simp] theorem advanceSp_OUT (n : Nat) (s : State) : (advanceSp n s).OUT = s.OUT := by
  unfold advanceSp; split <;> rfl

@[simp] theorem advanceSp_SEG (n : Nat) (s : State) : (advanceSp n s).SEG = s.SEG := by
  unfold advanceSp; split <;> rfl

@[simp] theorem advanceSp_SUB (n : Nat) (s : State) : (advanceSp n s).SUB = s.SUB := by
  unfold advanceSp; split <;> rfl

@[simp] theorem advanceSp_SUBPOS (n : Nat) (s : State) : (advanceSp n s).SUBPOS = s.SUBPOS := by
  unfold advanceSp; split <;> rfl

@[simp] theorem advanceSp_CHUNK (n : Nat) (s : State) : (advanceSp n s).CHUNK = s.CHUNK := by
  unfold advanceSp; split <;> rfl

@[simp] theorem advanceSp_SCRATCH (n : Nat) (s : State) : (advanceSp n s).SCRATCH = s.SCRATCH := by
  unfold advanceSp; split <;> rfl

@[simp] theorem advanceSp_fr (n : Nat) (s : State) : (advanceSp n s).fr = s.fr := by
  unfold advanceSp; split <;> rfl

@[simp] theorem advanceSp_m3d (n : Nat) (s : State) : (advanceSp n s).m3d = s.m3d := by
  unfold advanceSp; split <;> rfl

@[simp] theorem advanceSp_m2d (n : Nat) (s : State) : (advanceSp n s).m2d = s.m2d := by
  unfold advanceSp; split <;> rfl

@[simp] theorem advanceSp_m3e (n : Nat) (s : State) : (advanceSp n s).m3e = s.m3e := by
  unfold advanceSp; split <;> rfl

@[simp] theorem advanceSp_m2e (n : Nat) (s : State) : (advanceSp n s).m2e = s.m2e := by
  unfold advanceSp; split <;> rfl

@[simp] theorem advanceSp_recs (n : Nat) (s : State) : (advanceSp n s).recs = s.recs := by
  unfold advanceSp; split <;> rfl

@[simp] theorem advanceSp_phase (n : Nat) (s : State) : (advanceSp n s).phase = s.phase := by
  unfold advanceSp; split <;> rfl

@[simp] theorem advanceSp_turns (n : Nat) (s : State) : (advanceSp n s).turns = s.turns := by
  unfold advanceSp; split <;> rfl

@[simp] theorem advanceSp_policy (n : Nat) (s : State) : (advanceSp n s).policy = s.policy := by
  unfold advanceSp; split <;> rfl

theorem advanceSp_SP (n : Nat) (s : State) (h : s.SP.toNat + n < 2 ^ 64) :
    (advanceSp n s).SP = BitVec.ofNat 64 (s.SP.toNat + n) := by
  unfold advanceSp; rw [if_pos h]

theorem advanceSp_fresh (n : Nat) (s : State) (h : s.SP.toNat + n < 2 ^ 64) : (advanceSp n s).fresh = s.fresh := by
  unfold advanceSp; rw [if_pos h]

/-! ## setOutlen -/

@[simp] theorem setOutlen_CMD (s : State) : (setOutlen s).CMD = s.CMD := by
  unfold setOutlen; split <;> rfl

@[simp] theorem setOutlen_MODE (s : State) : (setOutlen s).MODE = s.MODE := by
  unfold setOutlen; split <;> rfl

@[simp] theorem setOutlen_STATE (s : State) : (setOutlen s).STATE = s.STATE := by
  unfold setOutlen; split <;> rfl

@[simp] theorem setOutlen_ERR (s : State) : (setOutlen s).ERR = s.ERR := by
  unfold setOutlen; split <;> rfl

@[simp] theorem setOutlen_SP (s : State) : (setOutlen s).SP = s.SP := by
  unfold setOutlen; split <;> rfl

@[simp] theorem setOutlen_IN (s : State) : (setOutlen s).IN = s.IN := by
  unfold setOutlen; split <;> rfl

@[simp] theorem setOutlen_OUT (s : State) : (setOutlen s).OUT = s.OUT := by
  unfold setOutlen; split <;> rfl

@[simp] theorem setOutlen_SEG (s : State) : (setOutlen s).SEG = s.SEG := by
  unfold setOutlen; split <;> rfl

@[simp] theorem setOutlen_SUB (s : State) : (setOutlen s).SUB = s.SUB := by
  unfold setOutlen; split <;> rfl

@[simp] theorem setOutlen_SUBPOS (s : State) : (setOutlen s).SUBPOS = s.SUBPOS := by
  unfold setOutlen; split <;> rfl

@[simp] theorem setOutlen_CHUNK (s : State) : (setOutlen s).CHUNK = s.CHUNK := by
  unfold setOutlen; split <;> rfl

@[simp] theorem setOutlen_SCRATCH (s : State) : (setOutlen s).SCRATCH = s.SCRATCH := by
  unfold setOutlen; split <;> rfl

@[simp] theorem setOutlen_fr (s : State) : (setOutlen s).fr = s.fr := by
  unfold setOutlen; split <;> rfl

@[simp] theorem setOutlen_m3d (s : State) : (setOutlen s).m3d = s.m3d := by
  unfold setOutlen; split <;> rfl

@[simp] theorem setOutlen_m2d (s : State) : (setOutlen s).m2d = s.m2d := by
  unfold setOutlen; split <;> rfl

@[simp] theorem setOutlen_m3e (s : State) : (setOutlen s).m3e = s.m3e := by
  unfold setOutlen; split <;> rfl

@[simp] theorem setOutlen_m2e (s : State) : (setOutlen s).m2e = s.m2e := by
  unfold setOutlen; split <;> rfl

@[simp] theorem setOutlen_recs (s : State) : (setOutlen s).recs = s.recs := by
  unfold setOutlen; split <;> rfl

@[simp] theorem setOutlen_phase (s : State) : (setOutlen s).phase = s.phase := by
  unfold setOutlen; split <;> rfl

@[simp] theorem setOutlen_turns (s : State) : (setOutlen s).turns = s.turns := by
  unfold setOutlen; split <;> rfl

@[simp] theorem setOutlen_policy (s : State) : (setOutlen s).policy = s.policy := by
  unfold setOutlen; split <;> rfl

/-! ## finish -/

@[simp] theorem finish_CMD (s : State) : (finish s).CMD = s.CMD := by
  simp [finish]

@[simp] theorem finish_MODE (s : State) : (finish s).MODE = s.MODE := by
  simp [finish]

@[simp] theorem finish_STATE (s : State) : (finish s).STATE = .done := by
  simp [finish]

@[simp] theorem finish_ERR (s : State) : (finish s).ERR = 0 := by
  simp [finish]

@[simp] theorem finish_SP (s : State) : (finish s).SP = s.SP := by
  simp [finish]

@[simp] theorem finish_IN (s : State) : (finish s).IN = s.IN := by
  simp [finish]

@[simp] theorem finish_OUT (s : State) : (finish s).OUT = s.OUT := by
  simp [finish]

@[simp] theorem finish_SEG (s : State) : (finish s).SEG = s.SEG := by
  simp [finish]

@[simp] theorem finish_SUB (s : State) : (finish s).SUB = s.SUB := by
  simp [finish]

@[simp] theorem finish_SUBPOS (s : State) : (finish s).SUBPOS = s.SUBPOS := by
  simp [finish]

@[simp] theorem finish_CHUNK (s : State) : (finish s).CHUNK = s.CHUNK := by
  simp [finish]

@[simp] theorem finish_SCRATCH (s : State) : (finish s).SCRATCH = s.SCRATCH := by
  simp [finish]

@[simp] theorem finish_fr (s : State) : (finish s).fr = s.fr := by
  simp [finish]

@[simp] theorem finish_m3d (s : State) : (finish s).m3d = s.m3d := by
  simp [finish]

@[simp] theorem finish_m2d (s : State) : (finish s).m2d = s.m2d := by
  simp [finish]

@[simp] theorem finish_m3e (s : State) : (finish s).m3e = s.m3e := by
  simp [finish]

@[simp] theorem finish_m2e (s : State) : (finish s).m2e = s.m2e := by
  simp [finish]

@[simp] theorem finish_recs (s : State) : (finish s).recs = s.recs := by
  simp [finish]

@[simp] theorem finish_phase (s : State) : (finish s).phase = .waiting := by
  simp [finish]

@[simp] theorem finish_turns (s : State) : (finish s).turns = s.turns := by
  simp [finish]

@[simp] theorem finish_policy (s : State) : (finish s).policy = s.policy := by
  simp [finish]

theorem finish_OUTLEN (s : State) (h : s.OUT.len < 2 ^ 64) : (finish s).OUTLEN = BitVec.ofNat 64 s.OUT.len := by
  simp only [finish, setOutlen, if_pos h]

theorem finish_fresh (s : State) (h : s.OUT.len < 2 ^ 64) : (finish s).fresh = s.fresh := by
  simp only [finish, setOutlen, if_pos h]

/-! ## startCommand -/

@[simp] theorem startCommand_CMD (s : State) : (startCommand s).CMD = s.CMD := rfl

@[simp] theorem startCommand_MODE (s : State) : (startCommand s).MODE = s.MODE := rfl

@[simp] theorem startCommand_STATE (s : State) : (startCommand s).STATE = .busy := rfl

@[simp] theorem startCommand_ERR (s : State) : (startCommand s).ERR = 0 := rfl

@[simp] theorem startCommand_SP (s : State) : (startCommand s).SP = s.SP := rfl

@[simp] theorem startCommand_OUTLEN (s : State) : (startCommand s).OUTLEN = s.OUTLEN := rfl

@[simp] theorem startCommand_IN (s : State) : (startCommand s).IN = s.IN := rfl

@[simp] theorem startCommand_OUT (s : State) : (startCommand s).OUT = Space.zeros 0 := rfl

@[simp] theorem startCommand_SEG (s : State) : (startCommand s).SEG = Space.zeros 0 := rfl

@[simp] theorem startCommand_SUB (s : State) : (startCommand s).SUB = Space.zeros 0 := rfl

@[simp] theorem startCommand_SUBPOS (s : State) : (startCommand s).SUBPOS = 0 := rfl

@[simp] theorem startCommand_CHUNK (s : State) : (startCommand s).CHUNK = Space.zeros 0 := rfl

@[simp] theorem startCommand_SCRATCH (s : State) : (startCommand s).SCRATCH = s.SCRATCH := rfl

@[simp] theorem startCommand_fr (s : State) : (startCommand s).fr = FramerRegs.zero := rfl

@[simp] theorem startCommand_m3d (s : State) : (startCommand s).m3d = s.m3d := rfl

@[simp] theorem startCommand_m2d (s : State) : (startCommand s).m2d = s.m2d := rfl

@[simp] theorem startCommand_m3e (s : State) : (startCommand s).m3e = s.m3e := rfl

@[simp] theorem startCommand_m2e (s : State) : (startCommand s).m2e = s.m2e := rfl

@[simp] theorem startCommand_recs (s : State) : (startCommand s).recs = [] := rfl

@[simp] theorem startCommand_phase (s : State) : (startCommand s).phase = .dispatch := rfl

@[simp] theorem startCommand_turns (s : State) : (startCommand s).turns = s.turns := rfl

@[simp] theorem startCommand_policy (s : State) : (startCommand s).policy = s.policy := rfl

@[simp] theorem startCommand_fresh (s : State) : (startCommand s).fresh = s.fresh := rfl

/-! ## m3ControlPair -/

@[simp] theorem m3ControlPair_CMD (a b : Byte) (s : State) : (m3ControlPair a b s).CMD = s.CMD := rfl

@[simp] theorem m3ControlPair_MODE (a b : Byte) (s : State) : (m3ControlPair a b s).MODE = s.MODE := rfl

@[simp] theorem m3ControlPair_STATE (a b : Byte) (s : State) : (m3ControlPair a b s).STATE = s.STATE := rfl

@[simp] theorem m3ControlPair_ERR (a b : Byte) (s : State) : (m3ControlPair a b s).ERR = s.ERR := rfl

@[simp] theorem m3ControlPair_SP (a b : Byte) (s : State) : (m3ControlPair a b s).SP = s.SP := rfl

@[simp] theorem m3ControlPair_OUTLEN (a b : Byte) (s : State) : (m3ControlPair a b s).OUTLEN = s.OUTLEN := rfl

@[simp] theorem m3ControlPair_IN (a b : Byte) (s : State) : (m3ControlPair a b s).IN = s.IN := rfl

@[simp] theorem m3ControlPair_OUT (a b : Byte) (s : State) : (m3ControlPair a b s).OUT = s.OUT := rfl

@[simp] theorem m3ControlPair_SEG (a b : Byte) (s : State) : (m3ControlPair a b s).SEG = s.SEG := rfl

@[simp] theorem m3ControlPair_SUB (a b : Byte) (s : State) : (m3ControlPair a b s).SUB = s.SUB := rfl

@[simp] theorem m3ControlPair_SUBPOS (a b : Byte) (s : State) : (m3ControlPair a b s).SUBPOS = s.SUBPOS := rfl

@[simp] theorem m3ControlPair_CHUNK (a b : Byte) (s : State) : (m3ControlPair a b s).CHUNK = s.CHUNK := rfl

@[simp] theorem m3ControlPair_SCRATCH (a b : Byte) (s : State) : (m3ControlPair a b s).SCRATCH = s.SCRATCH := rfl

@[simp] theorem m3ControlPair_fr (a b : Byte) (s : State) : (m3ControlPair a b s).fr = s.fr := rfl

@[simp] theorem m3ControlPair_m3d (a b : Byte) (s : State) : (m3ControlPair a b s).m3d = { s.m3d with A := a, B := b, IP := s.m3d.IP + 2 } := rfl

@[simp] theorem m3ControlPair_m2d (a b : Byte) (s : State) : (m3ControlPair a b s).m2d = s.m2d := rfl

@[simp] theorem m3ControlPair_m3e (a b : Byte) (s : State) : (m3ControlPair a b s).m3e = s.m3e := rfl

@[simp] theorem m3ControlPair_m2e (a b : Byte) (s : State) : (m3ControlPair a b s).m2e = s.m2e := rfl

@[simp] theorem m3ControlPair_recs (a b : Byte) (s : State) : (m3ControlPair a b s).recs = s.recs := rfl

@[simp] theorem m3ControlPair_phase (a b : Byte) (s : State) : (m3ControlPair a b s).phase = s.phase := rfl

@[simp] theorem m3ControlPair_turns (a b : Byte) (s : State) : (m3ControlPair a b s).turns = s.turns := rfl

@[simp] theorem m3ControlPair_policy (a b : Byte) (s : State) : (m3ControlPair a b s).policy = s.policy := rfl

@[simp] theorem m3ControlPair_fresh (a b : Byte) (s : State) : (m3ControlPair a b s).fresh = s.fresh := rfl

/-! ## m3Emit -/

@[simp] theorem m3Emit_CMD (bs : List Byte) (used : Nat) (s : State) : (m3Emit bs used s).CMD = s.CMD := rfl

@[simp] theorem m3Emit_MODE (bs : List Byte) (used : Nat) (s : State) : (m3Emit bs used s).MODE = s.MODE := rfl

@[simp] theorem m3Emit_STATE (bs : List Byte) (used : Nat) (s : State) : (m3Emit bs used s).STATE = s.STATE := rfl

@[simp] theorem m3Emit_ERR (bs : List Byte) (used : Nat) (s : State) : (m3Emit bs used s).ERR = s.ERR := rfl

@[simp] theorem m3Emit_SP (bs : List Byte) (used : Nat) (s : State) : (m3Emit bs used s).SP = s.SP := rfl

@[simp] theorem m3Emit_OUTLEN (bs : List Byte) (used : Nat) (s : State) : (m3Emit bs used s).OUTLEN = s.OUTLEN := rfl

@[simp] theorem m3Emit_IN (bs : List Byte) (used : Nat) (s : State) : (m3Emit bs used s).IN = s.IN := rfl

@[simp] theorem m3Emit_OUT (bs : List Byte) (used : Nat) (s : State) : (m3Emit bs used s).OUT = s.OUT.setAll (s.m3d.BASE + s.m3d.OP) bs := rfl

@[simp] theorem m3Emit_SEG (bs : List Byte) (used : Nat) (s : State) : (m3Emit bs used s).SEG = s.SEG := rfl

@[simp] theorem m3Emit_SUB (bs : List Byte) (used : Nat) (s : State) : (m3Emit bs used s).SUB = s.SUB := rfl

@[simp] theorem m3Emit_SUBPOS (bs : List Byte) (used : Nat) (s : State) : (m3Emit bs used s).SUBPOS = s.SUBPOS := rfl

@[simp] theorem m3Emit_CHUNK (bs : List Byte) (used : Nat) (s : State) : (m3Emit bs used s).CHUNK = s.CHUNK := rfl

@[simp] theorem m3Emit_SCRATCH (bs : List Byte) (used : Nat) (s : State) : (m3Emit bs used s).SCRATCH = s.SCRATCH := rfl

@[simp] theorem m3Emit_fr (bs : List Byte) (used : Nat) (s : State) : (m3Emit bs used s).fr = s.fr := rfl

@[simp] theorem m3Emit_m3d (bs : List Byte) (used : Nat) (s : State) : (m3Emit bs used s).m3d = { s.m3d with IP := s.m3d.IP + BitVec.ofNat 32 used, OP := s.m3d.OP + bs.length } := rfl

@[simp] theorem m3Emit_m2d (bs : List Byte) (used : Nat) (s : State) : (m3Emit bs used s).m2d = s.m2d := rfl

@[simp] theorem m3Emit_m3e (bs : List Byte) (used : Nat) (s : State) : (m3Emit bs used s).m3e = s.m3e := rfl

@[simp] theorem m3Emit_m2e (bs : List Byte) (used : Nat) (s : State) : (m3Emit bs used s).m2e = s.m2e := rfl

@[simp] theorem m3Emit_recs (bs : List Byte) (used : Nat) (s : State) : (m3Emit bs used s).recs = s.recs := rfl

@[simp] theorem m3Emit_phase (bs : List Byte) (used : Nat) (s : State) : (m3Emit bs used s).phase = s.phase := rfl

@[simp] theorem m3Emit_turns (bs : List Byte) (used : Nat) (s : State) : (m3Emit bs used s).turns = s.turns := rfl

@[simp] theorem m3Emit_policy (bs : List Byte) (used : Nat) (s : State) : (m3Emit bs used s).policy = s.policy := rfl

@[simp] theorem m3Emit_fresh (bs : List Byte) (used : Nat) (s : State) : (m3Emit bs used s).fresh = s.fresh := rfl

/-! ## m3Copy -/

@[simp] theorem m3Copy_CMD (d n : Nat) (s : State) : (m3Copy d n s).CMD = s.CMD := rfl

@[simp] theorem m3Copy_MODE (d n : Nat) (s : State) : (m3Copy d n s).MODE = s.MODE := rfl

@[simp] theorem m3Copy_STATE (d n : Nat) (s : State) : (m3Copy d n s).STATE = s.STATE := rfl

@[simp] theorem m3Copy_ERR (d n : Nat) (s : State) : (m3Copy d n s).ERR = s.ERR := rfl

@[simp] theorem m3Copy_SP (d n : Nat) (s : State) : (m3Copy d n s).SP = s.SP := rfl

@[simp] theorem m3Copy_OUTLEN (d n : Nat) (s : State) : (m3Copy d n s).OUTLEN = s.OUTLEN := rfl

@[simp] theorem m3Copy_IN (d n : Nat) (s : State) : (m3Copy d n s).IN = s.IN := rfl

@[simp] theorem m3Copy_OUT (d n : Nat) (s : State) : (m3Copy d n s).OUT = copyBack d n (s.m3d.BASE + s.m3d.OP) s.OUT := rfl

@[simp] theorem m3Copy_SEG (d n : Nat) (s : State) : (m3Copy d n s).SEG = s.SEG := rfl

@[simp] theorem m3Copy_SUB (d n : Nat) (s : State) : (m3Copy d n s).SUB = s.SUB := rfl

@[simp] theorem m3Copy_SUBPOS (d n : Nat) (s : State) : (m3Copy d n s).SUBPOS = s.SUBPOS := rfl

@[simp] theorem m3Copy_CHUNK (d n : Nat) (s : State) : (m3Copy d n s).CHUNK = s.CHUNK := rfl

@[simp] theorem m3Copy_SCRATCH (d n : Nat) (s : State) : (m3Copy d n s).SCRATCH = s.SCRATCH := rfl

@[simp] theorem m3Copy_fr (d n : Nat) (s : State) : (m3Copy d n s).fr = s.fr := rfl

@[simp] theorem m3Copy_m3d (d n : Nat) (s : State) : (m3Copy d n s).m3d = { s.m3d with OP := s.m3d.OP + n } := rfl

@[simp] theorem m3Copy_m2d (d n : Nat) (s : State) : (m3Copy d n s).m2d = s.m2d := rfl

@[simp] theorem m3Copy_m3e (d n : Nat) (s : State) : (m3Copy d n s).m3e = s.m3e := rfl

@[simp] theorem m3Copy_m2e (d n : Nat) (s : State) : (m3Copy d n s).m2e = s.m2e := rfl

@[simp] theorem m3Copy_recs (d n : Nat) (s : State) : (m3Copy d n s).recs = s.recs := rfl

@[simp] theorem m3Copy_phase (d n : Nat) (s : State) : (m3Copy d n s).phase = s.phase := rfl

@[simp] theorem m3Copy_turns (d n : Nat) (s : State) : (m3Copy d n s).turns = s.turns := rfl

@[simp] theorem m3Copy_policy (d n : Nat) (s : State) : (m3Copy d n s).policy = s.policy := rfl

@[simp] theorem m3Copy_fresh (d n : Nat) (s : State) : (m3Copy d n s).fresh = s.fresh := rfl

/-! ## beginRun -/

@[simp] theorem beginRun_CMD (d : BitVec 13) (s : State) : (beginRun d s).CMD = s.CMD := rfl

@[simp] theorem beginRun_MODE (d : BitVec 13) (s : State) : (beginRun d s).MODE = s.MODE := rfl

@[simp] theorem beginRun_STATE (d : BitVec 13) (s : State) : (beginRun d s).STATE = s.STATE := rfl

@[simp] theorem beginRun_ERR (d : BitVec 13) (s : State) : (beginRun d s).ERR = s.ERR := rfl

@[simp] theorem beginRun_SP (d : BitVec 13) (s : State) : (beginRun d s).SP = s.SP := rfl

@[simp] theorem beginRun_OUTLEN (d : BitVec 13) (s : State) : (beginRun d s).OUTLEN = s.OUTLEN := rfl

@[simp] theorem beginRun_IN (d : BitVec 13) (s : State) : (beginRun d s).IN = s.IN := rfl

@[simp] theorem beginRun_OUT (d : BitVec 13) (s : State) : (beginRun d s).OUT = s.OUT := rfl

@[simp] theorem beginRun_SEG (d : BitVec 13) (s : State) : (beginRun d s).SEG = s.SEG := rfl

@[simp] theorem beginRun_SUB (d : BitVec 13) (s : State) : (beginRun d s).SUB = s.SUB := rfl

@[simp] theorem beginRun_SUBPOS (d : BitVec 13) (s : State) : (beginRun d s).SUBPOS = s.SUBPOS := rfl

@[simp] theorem beginRun_CHUNK (d : BitVec 13) (s : State) : (beginRun d s).CHUNK = s.CHUNK := rfl

@[simp] theorem beginRun_SCRATCH (d : BitVec 13) (s : State) : (beginRun d s).SCRATCH = s.SCRATCH := rfl

@[simp] theorem beginRun_fr (d : BitVec 13) (s : State) : (beginRun d s).fr = s.fr := rfl

@[simp] theorem beginRun_m3d (d : BitVec 13) (s : State) : (beginRun d s).m3d = s.m3d := rfl

@[simp] theorem beginRun_m2d (d : BitVec 13) (s : State) : (beginRun d s).m2d = { s.m2d with DIST := d } := rfl

@[simp] theorem beginRun_m3e (d : BitVec 13) (s : State) : (beginRun d s).m3e = s.m3e := rfl

@[simp] theorem beginRun_m2e (d : BitVec 13) (s : State) : (beginRun d s).m2e = s.m2e := rfl

@[simp] theorem beginRun_recs (d : BitVec 13) (s : State) : (beginRun d s).recs = s.recs := rfl

@[simp] theorem beginRun_phase (d : BitVec 13) (s : State) : (beginRun d s).phase = .m2Length := rfl

@[simp] theorem beginRun_turns (d : BitVec 13) (s : State) : (beginRun d s).turns = s.turns := rfl

@[simp] theorem beginRun_policy (d : BitVec 13) (s : State) : (beginRun d s).policy = s.policy := rfl

@[simp] theorem beginRun_fresh (d : BitVec 13) (s : State) : (beginRun d s).fresh = s.fresh := rfl

/-! ## startSegment -/

@[simp] theorem startSegment_CMD (s : State) : (startSegment s).CMD = s.CMD := rfl

@[simp] theorem startSegment_MODE (s : State) : (startSegment s).MODE = s.MODE := rfl

@[simp] theorem startSegment_STATE (s : State) : (startSegment s).STATE = s.STATE := rfl

@[simp] theorem startSegment_ERR (s : State) : (startSegment s).ERR = s.ERR := rfl

@[simp] theorem startSegment_SP (s : State) : (startSegment s).SP = s.SP := rfl

@[simp] theorem startSegment_OUTLEN (s : State) : (startSegment s).OUTLEN = s.OUTLEN := rfl

@[simp] theorem startSegment_IN (s : State) : (startSegment s).IN = s.IN := rfl

@[simp] theorem startSegment_OUT (s : State) : (startSegment s).OUT = s.OUT := rfl

@[simp] theorem startSegment_SEG (s : State) : (startSegment s).SEG = s.SEG := rfl

@[simp] theorem startSegment_SUB (s : State) : (startSegment s).SUB = s.SUB := rfl

@[simp] theorem startSegment_SUBPOS (s : State) : (startSegment s).SUBPOS = s.SUBPOS := rfl

@[simp] theorem startSegment_CHUNK (s : State) : (startSegment s).CHUNK = s.CHUNK := rfl

@[simp] theorem startSegment_SCRATCH (s : State) : (startSegment s).SCRATCH = s.SCRATCH := rfl

@[simp] theorem startSegment_fr (s : State) : (startSegment s).fr = s.fr := rfl

@[simp] theorem startSegment_m3d (s : State) : (startSegment s).m3d = { IP := 0, OP := 0, A := Config.freeA s.fresh, B := Config.freeB s.fresh, BASE := s.OUT.len } := rfl

@[simp] theorem startSegment_m2d (s : State) : (startSegment s).m2d = s.m2d := rfl

@[simp] theorem startSegment_m3e (s : State) : (startSegment s).m3e = s.m3e := rfl

@[simp] theorem startSegment_m2e (s : State) : (startSegment s).m2e = s.m2e := rfl

@[simp] theorem startSegment_recs (s : State) : (startSegment s).recs = s.recs := rfl

@[simp] theorem startSegment_phase (s : State) : (startSegment s).phase = .m3Token := rfl

@[simp] theorem startSegment_turns (s : State) : (startSegment s).turns = s.turns := rfl

@[simp] theorem startSegment_policy (s : State) : (startSegment s).policy = s.policy := rfl

@[simp] theorem startSegment_fresh (s : State) : (startSegment s).fresh = s.fresh + 1 := rfl

/-! ## keepRec -/

@[simp] theorem keepRec_CMD (r : Rec) (p : Phase) (s : State) : (keepRec r p s).CMD = s.CMD := rfl

@[simp] theorem keepRec_MODE (r : Rec) (p : Phase) (s : State) : (keepRec r p s).MODE = s.MODE := rfl

@[simp] theorem keepRec_STATE (r : Rec) (p : Phase) (s : State) : (keepRec r p s).STATE = s.STATE := rfl

@[simp] theorem keepRec_ERR (r : Rec) (p : Phase) (s : State) : (keepRec r p s).ERR = s.ERR := rfl

@[simp] theorem keepRec_SP (r : Rec) (p : Phase) (s : State) : (keepRec r p s).SP = s.SP := rfl

@[simp] theorem keepRec_OUTLEN (r : Rec) (p : Phase) (s : State) : (keepRec r p s).OUTLEN = s.OUTLEN := rfl

@[simp] theorem keepRec_IN (r : Rec) (p : Phase) (s : State) : (keepRec r p s).IN = s.IN := rfl

@[simp] theorem keepRec_OUT (r : Rec) (p : Phase) (s : State) : (keepRec r p s).OUT = s.OUT := rfl

@[simp] theorem keepRec_SEG (r : Rec) (p : Phase) (s : State) : (keepRec r p s).SEG = s.SEG := rfl

@[simp] theorem keepRec_SUB (r : Rec) (p : Phase) (s : State) : (keepRec r p s).SUB = s.SUB := rfl

@[simp] theorem keepRec_SUBPOS (r : Rec) (p : Phase) (s : State) : (keepRec r p s).SUBPOS = s.SUBPOS := rfl

@[simp] theorem keepRec_CHUNK (r : Rec) (p : Phase) (s : State) : (keepRec r p s).CHUNK = s.CHUNK := rfl

@[simp] theorem keepRec_SCRATCH (r : Rec) (p : Phase) (s : State) : (keepRec r p s).SCRATCH = s.SCRATCH := rfl

@[simp] theorem keepRec_fr (r : Rec) (p : Phase) (s : State) : (keepRec r p s).fr = s.fr := rfl

@[simp] theorem keepRec_m3d (r : Rec) (p : Phase) (s : State) : (keepRec r p s).m3d = s.m3d := rfl

@[simp] theorem keepRec_m2d (r : Rec) (p : Phase) (s : State) : (keepRec r p s).m2d = s.m2d := rfl

@[simp] theorem keepRec_m3e (r : Rec) (p : Phase) (s : State) : (keepRec r p s).m3e = s.m3e := rfl

@[simp] theorem keepRec_m2e (r : Rec) (p : Phase) (s : State) : (keepRec r p s).m2e = s.m2e := rfl

@[simp] theorem keepRec_recs (r : Rec) (p : Phase) (s : State) : (keepRec r p s).recs = s.recs ++ [r] := rfl

@[simp] theorem keepRec_phase (r : Rec) (p : Phase) (s : State) : (keepRec r p s).phase = p := rfl

@[simp] theorem keepRec_turns (r : Rec) (p : Phase) (s : State) : (keepRec r p s).turns = s.turns := rfl

@[simp] theorem keepRec_policy (r : Rec) (p : Phase) (s : State) : (keepRec r p s).policy = s.policy := rfl

@[simp] theorem keepRec_fresh (r : Rec) (p : Phase) (s : State) : (keepRec r p s).fresh = s.fresh := rfl

/-! ## m3StartScan -/

@[simp] theorem m3StartScan_CMD (s : State) : (m3StartScan s).CMD = s.CMD := rfl

@[simp] theorem m3StartScan_MODE (s : State) : (m3StartScan s).MODE = s.MODE := rfl

@[simp] theorem m3StartScan_STATE (s : State) : (m3StartScan s).STATE = s.STATE := rfl

@[simp] theorem m3StartScan_ERR (s : State) : (m3StartScan s).ERR = s.ERR := rfl

@[simp] theorem m3StartScan_SP (s : State) : (m3StartScan s).SP = s.SP := rfl

@[simp] theorem m3StartScan_OUTLEN (s : State) : (m3StartScan s).OUTLEN = s.OUTLEN := rfl

@[simp] theorem m3StartScan_IN (s : State) : (m3StartScan s).IN = s.IN := rfl

@[simp] theorem m3StartScan_OUT (s : State) : (m3StartScan s).OUT = s.OUT := rfl

@[simp] theorem m3StartScan_SEG (s : State) : (m3StartScan s).SEG = s.SEG := rfl

@[simp] theorem m3StartScan_SUB (s : State) : (m3StartScan s).SUB = s.SUB := rfl

@[simp] theorem m3StartScan_SUBPOS (s : State) : (m3StartScan s).SUBPOS = s.SUBPOS := rfl

@[simp] theorem m3StartScan_CHUNK (s : State) : (m3StartScan s).CHUNK = s.CHUNK := rfl

@[simp] theorem m3StartScan_SCRATCH (s : State) : (m3StartScan s).SCRATCH = s.SCRATCH := rfl

@[simp] theorem m3StartScan_fr (s : State) : (m3StartScan s).fr = s.fr := rfl

@[simp] theorem m3StartScan_m3d (s : State) : (m3StartScan s).m3d = s.m3d := rfl

@[simp] theorem m3StartScan_m2d (s : State) : (m3StartScan s).m2d = s.m2d := rfl

@[simp] theorem m3StartScan_m3e (s : State) : (m3StartScan s).m3e = m3ScanStart := rfl

@[simp] theorem m3StartScan_m2e (s : State) : (m3StartScan s).m2e = s.m2e := rfl

@[simp] theorem m3StartScan_recs (s : State) : (m3StartScan s).recs = s.recs := rfl

@[simp] theorem m3StartScan_phase (s : State) : (m3StartScan s).phase = .m3Scan := rfl

@[simp] theorem m3StartScan_turns (s : State) : (m3StartScan s).turns = s.turns := rfl

@[simp] theorem m3StartScan_policy (s : State) : (m3StartScan s).policy = s.policy := rfl

@[simp] theorem m3StartScan_fresh (s : State) : (m3StartScan s).fresh = s.fresh := rfl

/-! ## m2StartScan -/

@[simp] theorem m2StartScan_CMD (s : State) : (m2StartScan s).CMD = s.CMD := rfl

@[simp] theorem m2StartScan_MODE (s : State) : (m2StartScan s).MODE = s.MODE := rfl

@[simp] theorem m2StartScan_STATE (s : State) : (m2StartScan s).STATE = s.STATE := rfl

@[simp] theorem m2StartScan_ERR (s : State) : (m2StartScan s).ERR = s.ERR := rfl

@[simp] theorem m2StartScan_SP (s : State) : (m2StartScan s).SP = s.SP := rfl

@[simp] theorem m2StartScan_OUTLEN (s : State) : (m2StartScan s).OUTLEN = s.OUTLEN := rfl

@[simp] theorem m2StartScan_IN (s : State) : (m2StartScan s).IN = s.IN := rfl

@[simp] theorem m2StartScan_OUT (s : State) : (m2StartScan s).OUT = s.OUT := rfl

@[simp] theorem m2StartScan_SEG (s : State) : (m2StartScan s).SEG = s.SEG := rfl

@[simp] theorem m2StartScan_SUB (s : State) : (m2StartScan s).SUB = s.SUB := rfl

@[simp] theorem m2StartScan_SUBPOS (s : State) : (m2StartScan s).SUBPOS = s.SUBPOS := rfl

@[simp] theorem m2StartScan_CHUNK (s : State) : (m2StartScan s).CHUNK = s.CHUNK := rfl

@[simp] theorem m2StartScan_SCRATCH (s : State) : (m2StartScan s).SCRATCH = s.SCRATCH := rfl

@[simp] theorem m2StartScan_fr (s : State) : (m2StartScan s).fr = s.fr := rfl

@[simp] theorem m2StartScan_m3d (s : State) : (m2StartScan s).m3d = s.m3d := rfl

@[simp] theorem m2StartScan_m2d (s : State) : (m2StartScan s).m2d = s.m2d := rfl

@[simp] theorem m2StartScan_m3e (s : State) : (m2StartScan s).m3e = s.m3e := rfl

@[simp] theorem m2StartScan_m2e (s : State) : (m2StartScan s).m2e = { m2ScanStart s.m2e with RLEN := Config.freeRlen s.fresh, BL := Config.freeBl s.fresh, BD := Config.freeBd s.fresh } := rfl

@[simp] theorem m2StartScan_recs (s : State) : (m2StartScan s).recs = s.recs := rfl

@[simp] theorem m2StartScan_phase (s : State) : (m2StartScan s).phase = .m2Scan := rfl

@[simp] theorem m2StartScan_turns (s : State) : (m2StartScan s).turns = s.turns := rfl

@[simp] theorem m2StartScan_policy (s : State) : (m2StartScan s).policy = s.policy := rfl

@[simp] theorem m2StartScan_fresh (s : State) : (m2StartScan s).fresh = s.fresh + 1 := rfl

/-! ## clearEngine -/

@[simp] theorem clearEngine_CMD (s : State) : (clearEngine s).CMD = .idle := rfl

@[simp] theorem clearEngine_MODE (s : State) : (clearEngine s).MODE = 3 := rfl

@[simp] theorem clearEngine_STATE (s : State) : (clearEngine s).STATE = .idle := rfl

@[simp] theorem clearEngine_ERR (s : State) : (clearEngine s).ERR = 0 := rfl

@[simp] theorem clearEngine_SP (s : State) : (clearEngine s).SP = Config.freeSp s.fresh := rfl

@[simp] theorem clearEngine_OUTLEN (s : State) : (clearEngine s).OUTLEN = 0 := rfl

@[simp] theorem clearEngine_IN (s : State) : (clearEngine s).IN = s.IN := rfl

@[simp] theorem clearEngine_OUT (s : State) : (clearEngine s).OUT = s.OUT := rfl

@[simp] theorem clearEngine_SEG (s : State) : (clearEngine s).SEG = s.SEG := rfl

@[simp] theorem clearEngine_SUB (s : State) : (clearEngine s).SUB = s.SUB := rfl

@[simp] theorem clearEngine_SUBPOS (s : State) : (clearEngine s).SUBPOS = s.SUBPOS := rfl

@[simp] theorem clearEngine_CHUNK (s : State) : (clearEngine s).CHUNK = s.CHUNK := rfl

@[simp] theorem clearEngine_SCRATCH (s : State) : (clearEngine s).SCRATCH = s.SCRATCH := rfl

@[simp] theorem clearEngine_fr (s : State) : (clearEngine s).fr = s.fr := rfl

@[simp] theorem clearEngine_m3d (s : State) : (clearEngine s).m3d = s.m3d := rfl

@[simp] theorem clearEngine_m2d (s : State) : (clearEngine s).m2d = s.m2d := rfl

@[simp] theorem clearEngine_m3e (s : State) : (clearEngine s).m3e = s.m3e := rfl

@[simp] theorem clearEngine_m2e (s : State) : (clearEngine s).m2e = s.m2e := rfl

@[simp] theorem clearEngine_recs (s : State) : (clearEngine s).recs = s.recs := rfl

@[simp] theorem clearEngine_phase (s : State) : (clearEngine s).phase = s.phase := rfl

@[simp] theorem clearEngine_turns (s : State) : (clearEngine s).turns = s.turns := rfl

@[simp] theorem clearEngine_policy (s : State) : (clearEngine s).policy = s.policy := rfl

@[simp] theorem clearEngine_fresh (s : State) : (clearEngine s).fresh = s.fresh + 1 := rfl

/-! ## powerOn -/

@[simp] theorem powerOn_CMD (s : State) : (powerOn s).CMD = State.reset.CMD := rfl

@[simp] theorem powerOn_MODE (s : State) : (powerOn s).MODE = State.reset.MODE := rfl

@[simp] theorem powerOn_STATE (s : State) : (powerOn s).STATE = State.reset.STATE := rfl

@[simp] theorem powerOn_ERR (s : State) : (powerOn s).ERR = State.reset.ERR := rfl

@[simp] theorem powerOn_SP (s : State) : (powerOn s).SP = Config.freeSp s.fresh := rfl

@[simp] theorem powerOn_OUTLEN (s : State) : (powerOn s).OUTLEN = State.reset.OUTLEN := rfl

@[simp] theorem powerOn_IN (s : State) : (powerOn s).IN = Space.ofList (Config.freeIn s.fresh) := rfl

@[simp] theorem powerOn_OUT (s : State) : (powerOn s).OUT = Space.ofList (Config.freeOut s.fresh) := rfl

@[simp] theorem powerOn_SEG (s : State) : (powerOn s).SEG = State.reset.SEG := rfl

@[simp] theorem powerOn_SUB (s : State) : (powerOn s).SUB = State.reset.SUB := rfl

@[simp] theorem powerOn_SUBPOS (s : State) : (powerOn s).SUBPOS = State.reset.SUBPOS := rfl

@[simp] theorem powerOn_CHUNK (s : State) : (powerOn s).CHUNK = State.reset.CHUNK := rfl

@[simp] theorem powerOn_SCRATCH (s : State) : (powerOn s).SCRATCH = State.reset.SCRATCH := rfl

@[simp] theorem powerOn_fr (s : State) : (powerOn s).fr = State.reset.fr := rfl

@[simp] theorem powerOn_m3d (s : State) : (powerOn s).m3d = State.reset.m3d := rfl

@[simp] theorem powerOn_m2d (s : State) : (powerOn s).m2d = State.reset.m2d := rfl

@[simp] theorem powerOn_m3e (s : State) : (powerOn s).m3e = State.reset.m3e := rfl

@[simp] theorem powerOn_m2e (s : State) : (powerOn s).m2e = State.reset.m2e := rfl

@[simp] theorem powerOn_recs (s : State) : (powerOn s).recs = State.reset.recs := rfl

@[simp] theorem powerOn_phase (s : State) : (powerOn s).phase = State.reset.phase := rfl

@[simp] theorem powerOn_turns (s : State) : (powerOn s).turns = s.turns := rfl

@[simp] theorem powerOn_policy (s : State) : (powerOn s).policy = s.policy := rfl

@[simp] theorem powerOn_fresh (s : State) : (powerOn s).fresh = s.fresh + 1 := rfl

/-! ## The mode-2 reader's registers -/

@[simp] theorem loadFirstGroup_OFF (g : Byte) (r : M2DecRegs) : (loadFirstGroup g r).OFF = r.OFF := rfl

@[simp] theorem loadFirstGroup_OPOS (g : Byte) (r : M2DecRegs) : (loadFirstGroup g r).OPOS = r.OPOS := rfl

@[simp] theorem loadFirstGroup_FW (g : Byte) (r : M2DecRegs) : (loadFirstGroup g r).FW = g.setWidth 16 := rfl

@[simp] theorem loadFirstGroup_NBITS (g : Byte) (r : M2DecRegs) : (loadFirstGroup g r).NBITS = 8 := rfl

@[simp] theorem loadFirstGroup_RUN (g : Byte) (r : M2DecRegs) : (loadFirstGroup g r).RUN = r.RUN := rfl

@[simp] theorem loadFirstGroup_LO (g : Byte) (r : M2DecRegs) : (loadFirstGroup g r).LO = r.LO := rfl

@[simp] theorem loadFirstGroup_BR (g : Byte) (r : M2DecRegs) : (loadFirstGroup g r).BR = r.BR := rfl

@[simp] theorem loadFirstGroup_DIST (g : Byte) (r : M2DecRegs) : (loadFirstGroup g r).DIST = r.DIST := rfl

@[simp] theorem loadFirstGroup_tok (g : Byte) (r : M2DecRegs) : (loadFirstGroup g r).tok = r.tok := rfl

@[simp] theorem loadFlagWord_OFF (w : BitVec 16) (r : M2DecRegs) : (loadFlagWord w r).OFF = r.OFF + 2 := rfl

@[simp] theorem loadFlagWord_OPOS (w : BitVec 16) (r : M2DecRegs) : (loadFlagWord w r).OPOS = r.OPOS := rfl

@[simp] theorem loadFlagWord_FW (w : BitVec 16) (r : M2DecRegs) : (loadFlagWord w r).FW = w := rfl

@[simp] theorem loadFlagWord_NBITS (w : BitVec 16) (r : M2DecRegs) : (loadFlagWord w r).NBITS = 16 := rfl

@[simp] theorem loadFlagWord_RUN (w : BitVec 16) (r : M2DecRegs) : (loadFlagWord w r).RUN = r.RUN := rfl

@[simp] theorem loadFlagWord_LO (w : BitVec 16) (r : M2DecRegs) : (loadFlagWord w r).LO = r.LO := rfl

@[simp] theorem loadFlagWord_BR (w : BitVec 16) (r : M2DecRegs) : (loadFlagWord w r).BR = r.BR := rfl

@[simp] theorem loadFlagWord_DIST (w : BitVec 16) (r : M2DecRegs) : (loadFlagWord w r).DIST = r.DIST := rfl

@[simp] theorem loadFlagWord_tok (w : BitVec 16) (r : M2DecRegs) : (loadFlagWord w r).tok = r.tok := rfl

@[simp] theorem takeFlagBit_OFF (r : M2DecRegs) : (takeFlagBit r).OFF = r.OFF := rfl

@[simp] theorem takeFlagBit_OPOS (r : M2DecRegs) : (takeFlagBit r).OPOS = r.OPOS := rfl

@[simp] theorem takeFlagBit_FW (r : M2DecRegs) : (takeFlagBit r).FW = r.FW >>> 1 := rfl

@[simp] theorem takeFlagBit_NBITS (r : M2DecRegs) : (takeFlagBit r).NBITS = r.NBITS - 1 := rfl

@[simp] theorem takeFlagBit_RUN (r : M2DecRegs) : (takeFlagBit r).RUN = r.RUN := rfl

@[simp] theorem takeFlagBit_LO (r : M2DecRegs) : (takeFlagBit r).LO = r.LO := rfl

@[simp] theorem takeFlagBit_BR (r : M2DecRegs) : (takeFlagBit r).BR = r.BR := rfl

@[simp] theorem takeFlagBit_DIST (r : M2DecRegs) : (takeFlagBit r).DIST = r.DIST := rfl

@[simp] theorem takeFlagBit_tok (r : M2DecRegs) : (takeFlagBit r).tok = r.tok ++ [.flag (r.FW.getLsbD 0)] := rfl

@[simp] theorem takeStreamByte_OFF (v : Byte) (r : M2DecRegs) : (takeStreamByte v r).OFF = r.OFF + 1 := rfl

@[simp] theorem takeStreamByte_OPOS (v : Byte) (r : M2DecRegs) : (takeStreamByte v r).OPOS = r.OPOS := rfl

@[simp] theorem takeStreamByte_FW (v : Byte) (r : M2DecRegs) : (takeStreamByte v r).FW = r.FW := rfl

@[simp] theorem takeStreamByte_NBITS (v : Byte) (r : M2DecRegs) : (takeStreamByte v r).NBITS = r.NBITS := rfl

@[simp] theorem takeStreamByte_RUN (v : Byte) (r : M2DecRegs) : (takeStreamByte v r).RUN = r.RUN := rfl

@[simp] theorem takeStreamByte_LO (v : Byte) (r : M2DecRegs) : (takeStreamByte v r).LO = r.LO := rfl

@[simp] theorem takeStreamByte_BR (v : Byte) (r : M2DecRegs) : (takeStreamByte v r).BR = r.BR := rfl

@[simp] theorem takeStreamByte_DIST (v : Byte) (r : M2DecRegs) : (takeStreamByte v r).DIST = r.DIST := rfl

@[simp] theorem takeStreamByte_tok (v : Byte) (r : M2DecRegs) : (takeStreamByte v r).tok = r.tok ++ [.byte v] := rfl

end Sys2Proof.Machine
end

