-- ==== Sys2Proof/Laws/Ops.lean ====
section
/-! SUPPORT. One lemma a shared operation: everything it can do, to be cited instead of unfolding it. -/

namespace Sys2Proof.Machine

open Sys2Proof.Safety

/-! ## Commands -/

/-- Raising an error ends the command in it. -/
theorem endsInError_raise (e : ErrorKind) (s : State) : EndsInError (.next (raise e s)) e :=
  ⟨raise e s, rfl, rfl, rfl, rfl⟩

/-- Every error has a code from 1 to 8 (60_exceptions R351). -/
theorem code_range (e : ErrorKind) : 1 ≤ e.code.toNat ∧ e.code.toNat ≤ 8 := by cases e <;> decide

/-- The codes tell the kinds apart. -/
theorem code_injective {e f : ErrorKind} (h : e.code = f.code) : e = f := by
  cases e <;> cases f <;> first | rfl | exact absurd h (by decide)

/-- A segment ends: on to the next record, or the command ends. -/
theorem nextRecord_cases (s : State) :
    (s.fr.SEGIDX.toNat + 1 < s.fr.NB.toNat ∧
      nextRecord s = { s with fr := { s.fr with SEGIDX := s.fr.SEGIDX + 1 }, phase := .m3Record }) ∨
    (s.fr.NB.toNat ≤ s.fr.SEGIDX.toNat + 1 ∧ nextRecord s = finish s) := by
  unfold nextRecord
  split
  · exact .inl ⟨by assumption, rfl⟩
  · exact .inr ⟨by omega, rfl⟩

/-! ## Mode 2 -/

/-- Writing one byte many times: `Overflow`, or the bytes. -/
theorem fillScratch_cases (c : Byte) (k : Nat) (s : State) :
    (65536 < s.m2d.OPOS.toNat + k ∧ fillScratch c k s = raise .overflow s) ∨
    (s.m2d.OPOS.toNat + k ≤ 65536 ∧
      fillScratch c k s =
        { s with
          SCRATCH := s.SCRATCH.setAll s.m2d.OPOS.toNat (List.replicate k c)
          m2d := { s.m2d with OPOS := s.m2d.OPOS + BitVec.ofNat 17 k } }) := by
  by_cases h : 65536 < s.m2d.OPOS.toNat + k
  · exact .inl ⟨h, if_pos h⟩
  · exact .inr ⟨by omega, if_neg h⟩

/-- `setup_run` after its length code (43_mode2_decode R274): `BadDistance`, or `Overflow`, or the copy. -/
theorem setupRun_cases (len : Nat) (s : State) :
    ((s.m2d.DIST = 0 ∨ s.m2d.OPOS.toNat < s.m2d.DIST.toNat) ∧
      setupRun len s = raise .badDistance { s with m2d := { s.m2d with RUN := BitVec.ofNat 13 len } }) ∨
    (s.m2d.DIST ≠ 0 ∧ s.m2d.DIST.toNat ≤ s.m2d.OPOS.toNat ∧ 65536 < s.m2d.OPOS.toNat + len ∧
      setupRun len s = raise .overflow { s with m2d := { s.m2d with RUN := BitVec.ofNat 13 len } }) ∨
    (s.m2d.DIST ≠ 0 ∧ s.m2d.DIST.toNat ≤ s.m2d.OPOS.toNat ∧ s.m2d.OPOS.toNat + len ≤ 65536 ∧
      setupRun len s =
        { s with
          SCRATCH := copyBack s.m2d.DIST.toNat len s.m2d.OPOS.toNat s.SCRATCH
          m2d := { s.m2d with RUN := BitVec.ofNat 13 len, OPOS := s.m2d.OPOS + BitVec.ofNat 17 len }
          phase := .m2Token }) := by
  simp only [setupRun, Config.m2Scratch]
  by_cases h1 : s.m2d.DIST = 0 ∨ s.m2d.OPOS.toNat < s.m2d.DIST.toNat
  · exact .inl ⟨h1, if_pos h1⟩
  · rw [if_neg h1]
    have h1' := not_or.mp h1
    by_cases h2 : 65536 < s.m2d.OPOS.toNat + len
    · exact .inr (.inl ⟨h1'.1, by omega, h2, if_pos h2⟩)
    · exact .inr (.inr ⟨h1'.1, by omega, by omega, if_neg h2⟩)

/-- `OPOS` never wraps while the output fits in SCRATCH. -/
theorem opos_add {o : BitVec 17} {k : Nat} (h : o.toNat + k ≤ 65536) : (o + BitVec.ofNat 17 k).toNat = o.toNat + k := by
  rw [BitVec.toNat_add, BitVec.toNat_ofNat]
  omega

/-! ## Decoding -/

@[simp] theorem bind_ok {α β : Type} (a : α) (r : List Item) (f : α → List Item → Take β) : (Take.ok a r).bind f = f a r := rfl
@[simp] theorem bind_needFlag {α β : Type} (f : α → List Item → Take β) : (Take.needFlag : Take α).bind f = .needFlag := rfl
@[simp] theorem bind_needByte {α β : Type} (f : α → List Item → Take β) : (Take.needByte : Take α).bind f = .needByte := rfl
@[simp] theorem bind_wrongKind {α β : Type} (f : α → List Item → Take β) : (Take.wrongKind : Take α).bind f = .wrongKind := rfl
@[simp] theorem takeFlag_nil : takeFlag [] = .needFlag := rfl
@[simp] theorem takeFlag_flag (b : Bool) (r : List Item) : takeFlag (.flag b :: r) = .ok b r := rfl
@[simp] theorem takeFlag_byte (v : Byte) (r : List Item) : takeFlag (.byte v :: r) = .wrongKind := rfl
@[simp] theorem takeByte_nil : takeByte [] = .needByte := rfl
@[simp] theorem takeByte_byte (v : Byte) (r : List Item) : takeByte (.byte v :: r) = .ok v r := rfl
@[simp] theorem takeByte_flag (b : Bool) (r : List Item) : takeByte (.flag b :: r) = .wrongKind := rfl

/-- Reading on succeeds exactly when both readings do. -/
theorem bind_eq_ok {α β : Type} {t : Take α} {f : α → List Item → Take β} {b : β} {r : List Item} :
    t.bind f = .ok b r ↔ ∃ a r', t = .ok a r' ∧ f a r' = .ok b r := by
  cases t with
  | ok a r' => exact ⟨fun h => ⟨a, r', rfl, h⟩, fun ⟨_, _, h, h'⟩ => by cases h; exact h'⟩
  | needFlag => exact ⟨fun h => by simp at h, fun ⟨_, _, h, _⟩ => by cases h⟩
  | needByte => exact ⟨fun h => by simp at h, fun ⟨_, _, h, _⟩ => by cases h⟩
  | wrongKind => exact ⟨fun h => by simp at h, fun ⟨_, _, h, _⟩ => by cases h⟩

/-- Bytes are read back as they stand. -/
theorem takeUpTo_byteItems (n : Nat) (bs : List Byte) :
    takeUpTo n (byteItems bs) = (bs.take n, byteItems (bs.drop n)) := by
  induction n generalizing bs with
  | zero => rfl
  | succ n ih =>
    cases bs with
    | nil => rfl
    | cons b r =>
      have : byteItems (b :: r) = .byte b :: byteItems r := rfl
      simp [this, takeUpTo, ih]

/-- A field of `k` flag bits is read back as it was written (30_encoding R107). -/
theorem takeBits_flagBits (k v w : Nat) (r : List Item) :
    takeBits k v (flagBits k w ++ r) = .ok (v * 2 ^ k + w % 2 ^ k) r := by
  induction k generalizing v with
  | zero => simp [flagBits, takeBits, Nat.mod_one]
  | succ k ih =>
    simp only [flagBits, List.cons_append, takeBits, takeFlag_flag, bind_ok, ih]
    congr 1
    have h2 : w % 2 ^ (k + 1) = 2 ^ k * (w / 2 ^ k % 2) + w % 2 ^ k := by
      rw [pow_succ, Nat.mod_mul]; omega
    have h3 : (w.testBit k).toNat = w / 2 ^ k % 2 := by
      rw [Nat.toNat_testBit]
    rw [h2, h3, pow_succ]
    ring

end Sys2Proof.Machine
end

