-- ==== Sys2Proof/Laws/PerInstr.lean ====
section
/-! SUPPORT. Statements for every instruction, one lemma a constructor. StreamForm: what an instruction's encoding is made of (30_encoding
R100): a mode-2 token or length code begins with a flag bit, every other instruction is whole bytes, at least one. -/

namespace Sys2Proof.Laws

/-- The place of the stream is bit-packed (R100). -/
def bitPacked : Ctx → Bool
  | .m2Token => true
  | .m2Length => true
  | _ => false

/-- The items of whole bytes are the items of those bytes. -/
theorem filterMap_byteItems (bs : List Byte) : (byteItems bs).filterMap Item.toByte = bs := by
  induction bs with
  | nil => rfl
  | cons b r ih =>
    have : byteItems (b :: r) = .byte b :: byteItems r := rfl
    simp [this, Item.toByte, ih]

/-- A byte-aligned encoding is the items of its bytes. -/
theorem whole_bytes {i : Instr} {bs : List Byte} (h : encode i = byteItems bs) : encode i = byteItems (encodeBytes i) := by
  rw [encodeBytes, h, filterMap_byteItems]

/-- What an instruction's encoding is made of (R100). -/
def StreamForm.Statement (i : Instr) : Prop :=
  if bitPacked i.ctx then ∃ b r, encode i = .flag b :: r
  else encode i = byteItems (encodeBytes i) ∧ encode i ≠ []

theorem StreamForm.m3Lit (n : Byte) (data : List Byte) : StreamForm.Statement (.m3Lit n data) :=
  ⟨whole_bytes rfl, by simp [encode, byteItems]⟩
theorem StreamForm.m3Ref (a b : Byte) (c : Option Byte) : StreamForm.Statement (.m3Ref a b c) :=
  ⟨whole_bytes rfl, by simp [encode, byteItems]⟩
theorem StreamForm.m2Lit (c : Byte) : StreamForm.Statement (.m2Lit c) := ⟨_, _, rfl⟩
theorem StreamForm.m2Sref (d : Byte) : StreamForm.Statement (.m2Sref d) := ⟨_, _, rfl⟩
theorem StreamForm.m2Lref (h : BitVec 5) (lo : Byte) : StreamForm.Statement (.m2Lref h lo) := ⟨_, _, rfl⟩
theorem StreamForm.m2Aref (lo : Byte) : StreamForm.Statement (.m2Aref lo) := ⟨_, _, rfl⟩
theorem StreamForm.m2End : StreamForm.Statement .m2End := ⟨_, _, rfl⟩
theorem StreamForm.m2Rpts (lo : Byte) (v : BitVec 4) (c : Byte) : StreamForm.Statement (.m2Rpts lo v c) := ⟨_, _, rfl⟩
theorem StreamForm.m2Rptl (lo : Byte) (v : BitVec 4) (x c : Byte) : StreamForm.Statement (.m2Rptl lo v x c) := ⟨_, _, rfl⟩
theorem StreamForm.len2 : StreamForm.Statement .len2 := ⟨_, _, rfl⟩
theorem StreamForm.len3 : StreamForm.Statement .len3 := ⟨_, _, rfl⟩
theorem StreamForm.len4 : StreamForm.Statement .len4 := ⟨_, _, rfl⟩
theorem StreamForm.len5 : StreamForm.Statement .len5 := ⟨_, _, rfl⟩
theorem StreamForm.len6to13 (x : BitVec 3) : StreamForm.Statement (.len6to13 x) := ⟨_, _, rfl⟩
theorem StreamForm.len14to269 (x : Byte) : StreamForm.Statement (.len14to269 x) := ⟨_, _, rfl⟩
theorem StreamForm.m2ChunkStart (method : Byte) (g : Option Byte) : StreamForm.Statement (.m2ChunkStart method g) :=
  ⟨whole_bytes rfl, by simp [encode, byteItems]⟩
theorem StreamForm.m2FlagWord (w : BitVec 16) : StreamForm.Statement (.m2FlagWord w) :=
  ⟨whole_bytes rfl, by simp [encode, byteItems, u16le, littleBytes]⟩
theorem StreamForm.m3ContainerHeader (flag nb cs maxrec us : BitVec 32) :
    StreamForm.Statement (.m3ContainerHeader flag nb cs maxrec us) :=
  ⟨whole_bytes rfl, by simp [encode, byteItems, u32le, littleBytes]⟩
theorem StreamForm.m3BlockRecord (bs ubs bt : BitVec 32) (payload : List Byte) :
    StreamForm.Statement (.m3BlockRecord bs ubs bt payload) :=
  ⟨whole_bytes rfl, by simp [encode, byteItems, u32le, littleBytes]⟩
theorem StreamForm.m2ContainerHeader (cs us nb : BitVec 32) (sub : List Byte) :
    StreamForm.Statement (.m2ContainerHeader cs us nb sub) :=
  ⟨whole_bytes rfl, by simp [encode, byteItems, u32le, littleBytes]⟩
theorem StreamForm.m2ChunkRecord (bs : BitVec 16) (chunk : List Byte) (cont : Option Byte) :
    StreamForm.Statement (.m2ChunkRecord bs chunk cont) :=
  ⟨whole_bytes rfl, by simp [encode, byteItems, u16le, littleBytes]⟩

end Sys2Proof.Laws
end

