-- ==== Sys2Proof/Certificates/Slice0/Obligations.lean ====
section
/-! DEFINITION. The statements about the codec core, for the provers. Each docstring names the rule of spec/ it formalises. -/

open Sys2Proof Sys2Proof.Machine Sys2Proof.Safety

/-! ## Encoding -/

/-- 30_encoding R102 to R123: decoding what the encoder writes gives the instruction back, with nothing left over. -/
def Obligations.DecodeInvertsEncode : Prop :=
  ∀ i : Instr, WellFormed i = true → decode i.ctx (encode i) = .ok i []

/-- 30_encoding R100 to R123: decoding drops no bit: what was read, encoded again, is what stood in the stream; and a mode-2 token or
length code that was read is well-formed (R118). -/
def Obligations.EncodeInvertsDecode : Prop :=
  ∀ (c : Ctx) (xs : List Item) (i : Instr) (r : List Item), decode c xs = .ok i r →
    i.ctx = c ∧ encode i ++ r = xs ∧ (c = .m2Token ∨ c = .m2Length → WellFormed i = true)

/-- A few words written out from the encodings of 30_encoding (R102, R103, R109, R111, R114, R121, R122). The M2_LREF and LEN6_13 words rest
on the bit order G3 and the length-code table G4, which the spec takes from general knowledge (PRESUMED, log 14). -/
def Obligations.SpecWordsDecode : Prop :=
  decode .m3Token (byteItems [0x00, 0x03, 0x61, 0x62, 0x63]) = .ok (.m3Lit 3 [0x61, 0x62, 0x63]) [] ∧
  decode .m3Token (byteItems [0x02, 0x01, 0x64]) = .ok (.m3Ref 2 1 (some 0x64)) [] ∧
  decode .m2Token [.flag false, .byte 0x71] = .ok (.m2Lit 0x71) [] ∧
  decode .m2Token [.flag true, .flag true, .flag false, .flag false, .flag false, .flag false, .flag true, .byte 0x2C]
    = .ok (.m2Lref 1 0x2C) [] ∧
  decode .m2Length [.flag false, .flag false, .flag false, .flag false, .flag true, .flag false, .flag true, .flag true]
    = .ok (.len6to13 3) [] ∧
  decode .m3Record (byteItems [5, 0, 0, 0, 1, 0, 0, 0, 0, 0, 0, 0, 0x41]) = .ok (.m3BlockRecord 5 1 0 [0x41]) [] ∧
  decode .container (byteItems [0x0f, 0, 0, 0, 1, 0, 0, 0, 1, 0, 0, 0, 6, 0, 0, 6, 0x71, 0, 0])
    = .ok (.m2ContainerHeader 15 1 1 [6, 0, 0, 6, 0x71, 0, 0]) []

/-- 41_mode3_decode R202 (with R201): inside a segment the control pair at `IP` selects the token that is executed; there is no third
case. -/
def Obligations.ControlPairSelectsToken : Prop :=
  ∀ s : State, s.turns = [] → s.phase = .m3Token → s.m3d.IP.toNat + 2 ≤ s.SEG.len →
    (s.SEG.get s.m3d.IP.toNat = 0 →
      step s = exec (.m3Lit (s.SEG.get (s.m3d.IP.toNat + 1))
        (s.SEG.slice (s.m3d.IP.toNat + 2) (s.SEG.get (s.m3d.IP.toNat + 1)).toNat)) s) ∧
    (s.SEG.get s.m3d.IP.toNat ≠ 0 →
      step s = exec (.m3Ref (s.SEG.get s.m3d.IP.toNat) (s.SEG.get (s.m3d.IP.toNat + 1))
        (s.SEG.slice (s.m3d.IP.toNat + 2) 1).head?) s)

/-- 30_encoding R114, 44_mode2_encode R309: the table of length codes; every length from 2 to 269 has exactly one code, and it is the one the
encoder picks. The table is G4, with the bit order G3: the spec takes both from general knowledge (PRESUMED, log 14). -/
def Obligations.LengthCodesAreCanonical : Prop :=
  (encode .len2 = [.flag true] ∧
    encode .len3 = [.flag false, .flag true] ∧
    encode .len4 = [.flag false, .flag false, .flag true] ∧
    encode .len5 = [.flag false, .flag false, .flag false, .flag true] ∧
    (∀ x : BitVec 3, encode (.len6to13 x) =
      [.flag false, .flag false, .flag false, .flag false, .flag true, .flag (x.getLsbD 2), .flag (x.getLsbD 1), .flag (x.getLsbD 0)]) ∧
    ∀ x : Byte, encode (.len14to269 x) =
      [.flag false, .flag false, .flag false, .flag false, .flag false, .byte x]) ∧
  (∀ i : Instr, i.ctx = .m2Length → 2 ≤ codeLength i ∧ codeLength i ≤ 269) ∧
  ∀ n, 2 ≤ n → n ≤ 269 → ∃ i : Instr, i.ctx = .m2Length ∧ codeLength i = n ∧
    (∀ j : Instr, j.ctx = .m2Length → codeLength j = n → j = i) ∧ lengthCode n = i

/-! ## A step runs the decoded instruction; the mode-2 reader -/

/-- 40_framer R151 to R160, 41_mode3_decode R200, 43_mode2_decode R260 to R265: on the engine's turn, what the decoder reads at the cursor
is what the step executes; in mode 2 the items held are handed over with it (that they are held, and empty from then on, is the model's
choice, log 6), and in a token as in a length code a flag word is executed where its first bit is needed (G2, PRESUMED, log 14). -/
def Obligations.StepRunsDecodedInstruction : Prop :=
  ∀ (s : State) (i : Instr) (r : List Item), s.turns = [] →
    (s.phase = .header → decode .container (streamItems s) = .ok i r → step s = exec i s) ∧
    (s.phase = .m3Record → decode .m3Record (streamItems s) = .ok i r → step s = exec i s) ∧
    (s.phase = .m3Token → s.m3d.IP.toNat < s.SEG.len → decode .m3Token (segmentItems s) = .ok i r → step s = exec i s) ∧
    (s.phase = .m2Chunk → decode .m2Chunk (byteItems (s.SUB.slice s.SUBPOS s.SUB.len)) = .ok i r → step s = exec i s) ∧
    (s.phase = .m2Start → decode .m2Start (byteItems (s.CHUNK.slice 0 2)) = .ok i r → step s = exec i s) ∧
    (s.phase = .m2Token → decode .m2Token s.m2d.tok = .ok i r → step s = exec i { s with m2d := { s.m2d with tok := [] } }) ∧
    (s.phase = .m2Length → decode .m2Length s.m2d.tok = .ok i r → step s = exec i { s with m2d := { s.m2d with tok := [] } }) ∧
    (s.phase = .m2Token ∧ decode .m2Token s.m2d.tok = .needFlag ∨ s.phase = .m2Length ∧ decode .m2Length s.m2d.tok = .needFlag →
      s.m2d.NBITS = 0 → decode .m2FlagWord (byteItems (s.CHUNK.slice s.m2d.OFF.toNat 2)) = .ok i r → step s = exec i s)

/-- 43_mode2_decode R262 and R264: a needed flag bit is bit 0 of `FW`; with none left, the two bytes at `OFF` become the flag word, or
`OutOfData`; a needed byte is the one at `OFF`, or `OutOfData`, and `FW` and `NBITS` are not touched. What was read is held in `tok`, the model's choice
(log 6); that a word is fetched only when a bit is needed and none is left is G2, from general knowledge (PRESUMED, log 14). -/
def Obligations.ReaderTakesBitsAndBytes : Prop :=
  ∀ (s : State) (c : Ctx), s.turns = [] → (s.phase = .m2Token ∧ c = .m2Token ∨ s.phase = .m2Length ∧ c = .m2Length) →
    (decode c s.m2d.tok = .needFlag → s.m2d.NBITS ≠ 0 →
      step s = .next { s with m2d := { s.m2d with
        FW := s.m2d.FW >>> 1, NBITS := s.m2d.NBITS - 1, tok := s.m2d.tok ++ [.flag (s.m2d.FW.getLsbD 0)] } }) ∧
    (decode c s.m2d.tok = .needFlag → s.m2d.NBITS = 0 → s.m2d.OFF.toNat + 2 ≤ s.CHUNK.len →
      ∃ t, step s = .next t ∧
        t = { s with m2d := { s.m2d with FW := t.m2d.FW, NBITS := 16, OFF := s.m2d.OFF + 2 } } ∧
        t.m2d.FW.toNat = (s.CHUNK.get s.m2d.OFF.toNat).toNat + (s.CHUNK.get (s.m2d.OFF.toNat + 1)).toNat * 256) ∧
    (decode c s.m2d.tok = .needFlag → s.m2d.NBITS = 0 → s.CHUNK.len < s.m2d.OFF.toNat + 2 → EndsInError (step s) .outOfData) ∧
    (decode c s.m2d.tok = .needByte → s.m2d.OFF.toNat < s.CHUNK.len →
      step s = .next { s with m2d := { s.m2d with
        OFF := s.m2d.OFF + 1, tok := s.m2d.tok ++ [.byte (s.CHUNK.get s.m2d.OFF.toNat)] } }) ∧
    (decode c s.m2d.tok = .needByte → s.CHUNK.len ≤ s.m2d.OFF.toNat → EndsInError (step s) .outOfData)

/-- 20_memory R76: the bits of a flag word are taken from bit 0 upward, the first eight from its first byte; 16 of them are there. -/
def Obligations.FlagBitsLeastSignificantFirst : Prop :=
  ∀ (lo hi : Byte) (r : M2DecRegs) (k : Nat), k < 16 →
    ∃ w : BitVec 16, (∃ rest, decode .m2FlagWord (byteItems [lo, hi]) = .ok (.m2FlagWord w) rest) ∧
      (takeFlagBit^[k] (loadFlagWord w r)).FW.getLsbD 0 = (if k < 8 then lo.getLsbD k else hi.getLsbD (k - 8)) ∧
      (takeFlagBit^[k] (loadFlagWord w r)).NBITS.toNat = 16 - k

/-! ## Reset and the host -/

/-- 10_state R44, 70_reset R390: what power-on reset leaves in the registers the rule gives a value: in the state after reset, and in the
state the host's power-on action gives. -/
def Obligations.ResetLeavesHostRegisters : Prop :=
  (State.reset.CMD.code = 0 ∧ State.reset.STATE.code = 0 ∧ State.reset.ERR = 0 ∧ State.reset.OUTLEN = 0 ∧ State.reset.MODE = 3) ∧
  ∀ (s : State) (r : List Turn), s.turns = .host .powerOn :: r →
    ∃ t, step s = .next t ∧ t.CMD.code = 0 ∧ t.STATE.code = 0 ∧ t.ERR = 0 ∧ t.OUTLEN = 0 ∧ t.MODE = 3 ∧ t.phase = .waiting ∧ t.turns = r

/-- 10_state R32, 70_reset R391: a command written while the engine is not BUSY starts it: BUSY, framer registers 0, OUT empty, the input
and MODE as they are, and nothing carried over from the command before (10_state R43, 60_exceptions R364): no encoded record (log 11), and
the units' spaces empty. 40_framer R150, R170: DECODE goes on to the container header whatever MODE is, ENCODE to the encoder of its mode (that
dispatch is a step of its own is log 5). -/
def Obligations.CommandStartClearsFramer : Prop :=
  (∀ (s : State) (c : Command) (r : List Turn), s.turns = .host (.writeCmd c) :: r → s.STATE ≠ .busy → c ≠ .idle →
    ∃ t, step s = .next t ∧ t.CMD = c ∧ t.STATE = .busy ∧ t.ERR = 0 ∧ t.fr = FramerRegs.zero ∧ t.OUT = Space.zeros 0 ∧
      t.recs = [] ∧ t.SEG = Space.zeros 0 ∧ t.SUB = Space.zeros 0 ∧ t.SUBPOS = 0 ∧ t.CHUNK = Space.zeros 0 ∧
      t.phase = .dispatch ∧ t.IN = s.IN ∧ t.SP = s.SP ∧ t.MODE = s.MODE ∧ t.turns = r) ∧
  ∀ s : State, s.turns = [] → s.phase = .dispatch →
    (s.CMD = .decode → step s = .next { s with phase := .header }) ∧
    (s.CMD = .encode → s.MODE = 3 → step s = .next { s with phase := .m3Split }) ∧
    (s.CMD = .encode → s.MODE = 2 → step s = .next { s with phase := .m2Split })

/-- 70_reset R404: a write of CMD while BUSY is ignored. -/
def Obligations.BusyIgnoresCommandWrite : Prop :=
  ∀ (s : State) (c : Command) (r : List Turn), s.turns = .host (.writeCmd c) :: r → s.STATE = .busy →
    step s = .next { s with turns := r }

/-- 60_exceptions R364, 10_state R31 (the last column of its table): CMD = IDLE in DONE or ERROR gives STATE IDLE, ERR 0, MODE 3 and OUTLEN 0;
SP is unspecified after it, a free value: the statement is for every value. That the spaces and the unit registers stay is log 8. Until the
host writes CMD the engine only waits. -/
def Obligations.ClearReturnsToIdle : Prop :=
  (∀ (s : State) (r : List Turn), s.turns = .host (.writeCmd .idle) :: r → s.STATE = .done ∨ s.STATE = .error →
    ∃ t, step s = .next t ∧
      t = { s with CMD := .idle, MODE := 3, STATE := .idle, ERR := 0, OUTLEN := 0, SP := t.SP, fresh := s.fresh + 1, turns := r }) ∧
  ∀ s : State, s.turns = [] → s.phase = .waiting → step s = .next s

/-- 70_reset R392, R403: the host's data writes take effect while the engine is not BUSY, and have no move while it is (log 15). -/
def Obligations.HostDataWrites : Prop :=
  ∀ (s : State) (r : List Turn),
    (∀ bs, s.turns = .host (.writeIn bs) :: r → s.STATE ≠ .busy →
      ∃ t, step s = .next t ∧ t.IN.toList = bs ∧ t = { s with IN := t.IN, turns := r }) ∧
    (∀ v, s.turns = .host (.writeSp v) :: r → s.STATE ≠ .busy → step s = .next { s with SP := v, turns := r }) ∧
    (∀ v, s.turns = .host (.writeMode v) :: r → s.STATE ≠ .busy → step s = .next { s with MODE := v, turns := r }) ∧
    (∀ a, s.turns = .host a :: r → s.STATE = .busy → (∀ c, a ≠ .writeCmd c) → a ≠ .powerOn →
      step s = .refused .hostWriteWhileBusy)

/-- 60_exceptions R359: the reserved command, and ENCODE with a mode other than 2 or 3, end in `BadCommand`, and IN is not read:
with any other input the same happens. -/
def Obligations.BadCommandsEndInError : Prop :=
  ∀ s : State, s.turns = [] → s.phase = .dispatch →
    s.CMD = .reserved ∨ (s.CMD = .encode ∧ s.MODE ≠ 2 ∧ s.MODE ≠ 3) →
    ∃ t, step s = .next t ∧ t.STATE = .error ∧ t.ERR = 8 ∧ t.phase = .waiting ∧ t.IN = s.IN ∧
      ∀ m : Space, step { s with IN := m } = .next { t with IN := m }

/-! ## The mode-3 tokens -/

/-- 41_mode3_decode R203 (with the control pair of R201): M3_LIT. -/
def Obligations.M3LitCopiesLiterals : Prop :=
  ∀ (n : Byte) (data : List Byte) (s : State), s.OUT.wf = true →
    (data.length < n.toNat → EndsInError (exec (.m3Lit n data) s) .truncatedInput) ∧
    (data.length = n.toNat → ∃ t, exec (.m3Lit n data) s = .next t ∧
      t = { s with OUT := t.OUT, m3d := { s.m3d with
        A := 0, B := n, IP := s.m3d.IP + 2 + BitVec.ofNat 32 n.toNat, OP := s.m3d.OP + n.toNat } } ∧
      Written s.OUT t.OUT (s.m3d.BASE + s.m3d.OP) data ∧
      (s.m3d.BASE + s.m3d.OP = s.OUT.len → t.OUT.len = s.OUT.len + n.toNat))

/-- 41_mode3_decode R204, R205, R206: M3_REF: `BadDistance` first; then the last `b + 1` bytes repeated `a` times over, and after them the
coupled literal, or `TruncatedInput` when it is missing. -/
def Obligations.M3RefRepeatsAndAppends : Prop :=
  ∀ (a b : Byte) (s : State), s.OUT.wf = true →
    (∀ c : Option Byte, s.m3d.OP < b.toNat + 1 → EndsInError (exec (.m3Ref a b c) s) .badDistance) ∧
    (b.toNat + 1 ≤ s.m3d.OP → s.m3d.BASE + s.m3d.OP = s.OUT.len →
      EndsInError (exec (.m3Ref a b none) s) .truncatedInput ∧
      ∀ c : Byte, ∃ t, exec (.m3Ref a b (some c)) s = .next t ∧
        t = { s with OUT := t.OUT, m3d := { s.m3d with A := a, B := b, IP := s.m3d.IP + 3, OP := s.m3d.OP + a.toNat + 1 } } ∧
        t.OUT.len = s.OUT.len + a.toNat + 1 ∧
        (∀ i, i < a.toNat → t.OUT.get (s.m3d.BASE + s.m3d.OP + i)
          = s.OUT.get (s.m3d.BASE + s.m3d.OP - (b.toNat + 1) + i % (b.toNat + 1))) ∧
        t.OUT.get (s.m3d.BASE + s.m3d.OP + a.toNat) = c ∧
        ∀ x, x < s.m3d.BASE + s.m3d.OP ∨ s.m3d.BASE + s.m3d.OP + a.toNat + 1 ≤ x → t.OUT.get x = s.OUT.get x)

/-- 41_mode3_decode R207 (with 40_framer R153, R156): at the end of SEG the segment ends, on to the next record or to DONE; before it the
loop goes on with a token, or `TruncatedInput` when one byte is left. -/
def Obligations.SegmentEndsAtItsLength : Prop :=
  ∀ s : State, s.turns = [] → s.phase = .m3Token →
    (s.SEG.len ≤ s.m3d.IP.toNat → s.fr.SEGIDX.toNat + 1 < s.fr.NB.toNat →
      step s = .next { s with fr := { s.fr with SEGIDX := s.fr.SEGIDX + 1 }, phase := .m3Record }) ∧
    (s.SEG.len ≤ s.m3d.IP.toNat → s.fr.NB.toNat ≤ s.fr.SEGIDX.toNat + 1 → s.OUT.len < 2 ^ 64 →
      step s = .next { s with STATE := .done, ERR := 0, OUTLEN := BitVec.ofNat 64 s.OUT.len, phase := .waiting }) ∧
    (s.m3d.IP.toNat + 1 = s.SEG.len → EndsInError (step s) .truncatedInput) ∧
    (s.m3d.IP.toNat + 2 ≤ s.SEG.len → ∃ i r, decode .m3Token (segmentItems s) = .ok i r ∧ step s = exec i s)

/-! ## The mode-2 tokens -/

/-- 43_mode2_decode R266, R275: M2_LIT, its byte read before the check of SCRATCH. R266 tests `OPOS = 65536`; that the test also holds above it,
where `OPOS` never is, is log 20 (DEDUCED). -/
def Obligations.M2LitWritesByte : Prop :=
  (∀ s : State, s.turns = [] → s.phase = .m2Token → s.m2d.tok = [.flag false] → s.CHUNK.len ≤ s.m2d.OFF.toNat →
    EndsInError (step s) .outOfData) ∧
  ∀ (c : Byte) (s : State), s.SCRATCH.wf = true →
    (65536 ≤ s.m2d.OPOS.toNat → EndsInError (exec (.m2Lit c) s) .overflow) ∧
    (s.m2d.OPOS.toNat < 65536 → ∃ t, exec (.m2Lit c) s = .next t ∧
      t = { s with SCRATCH := t.SCRATCH, m2d := { s.m2d with OPOS := t.m2d.OPOS } } ∧
      t.m2d.OPOS.toNat = s.m2d.OPOS.toNat + 1 ∧
      Written s.SCRATCH t.SCRATCH s.m2d.OPOS.toNat [c])

/-- 43_mode2_decode R267, R268, R269: the distance each back-reference token gives `setup_run`, and what it leaves in `RUN` and `LO`. -/
def Obligations.DistanceTokensSetDistance : Prop :=
  ∀ s : State,
    (∀ d : Byte, ∃ t, exec (.m2Sref d) s = .next t ∧
      t = { s with m2d := { s.m2d with DIST := t.m2d.DIST }, phase := .m2Length } ∧ t.m2d.DIST.toNat = d.toNat) ∧
    (∀ (h : BitVec 5) (lo : Byte), h ≠ 0 → ∃ t, exec (.m2Lref h lo) s = .next t ∧
      t = { s with m2d := { s.m2d with RUN := t.m2d.RUN, LO := lo, DIST := t.m2d.DIST }, phase := .m2Length } ∧
      t.m2d.RUN.toNat = h.toNat ∧ t.m2d.DIST.toNat = h.toNat * 256 + lo.toNat ∧
      0x100 ≤ t.m2d.DIST.toNat ∧ t.m2d.DIST.toNat ≤ 0x1FFF) ∧
    (∀ lo : Byte, ∃ t, exec (.m2Aref lo) s = .next t ∧
      t = { s with m2d := { s.m2d with RUN := 0, LO := lo, DIST := t.m2d.DIST }, phase := .m2Length } ∧ t.m2d.DIST.toNat = lo.toNat)

/-- 43_mode2_decode R270: M2_END ends the token loop and writes nothing. -/
def Obligations.EndStopsChunk : Prop :=
  ∀ s : State, exec .m2End s = .next { s with m2d := { s.m2d with RUN := 0, LO := 0 }, phase := .m2CopyOut }

/-- 43_mode2_decode R272: the repeats: the count, `BR`, the bytes, and `Overflow` before any of them is written. -/
def Obligations.RepeatTokensFill : Prop :=
  ∀ (lo : Byte) (v : BitVec 4) (x c : Byte) (s : State), s.SCRATCH.wf = true →
    (s.m2d.OPOS.toNat + (v.toNat + 14) ≤ 65536 → ∃ t, exec (.m2Rpts lo v c) s = .next t ∧
      t = { s with SCRATCH := t.SCRATCH, m2d := { s.m2d with LO := lo, BR := 0, RUN := t.m2d.RUN, OPOS := t.m2d.OPOS } } ∧
      t.m2d.RUN.toNat = v.toNat + 14 ∧ t.m2d.OPOS.toNat = s.m2d.OPOS.toNat + (v.toNat + 14) ∧
      Written s.SCRATCH t.SCRATCH s.m2d.OPOS.toNat (List.replicate (v.toNat + 14) c)) ∧
    (65536 < s.m2d.OPOS.toNat + (v.toNat + 14) → EndsInError (exec (.m2Rpts lo v c) s) .overflow) ∧
    (s.m2d.OPOS.toNat + (v.toNat * 256 + x.toNat + 14) ≤ 65536 → ∃ t, exec (.m2Rptl lo v x c) s = .next t ∧
      t = { s with SCRATCH := t.SCRATCH, m2d := { s.m2d with LO := lo, BR := 1, RUN := t.m2d.RUN, OPOS := t.m2d.OPOS } } ∧
      t.m2d.RUN.toNat = v.toNat * 256 + x.toNat + 14 ∧
      t.m2d.OPOS.toNat = s.m2d.OPOS.toNat + (v.toNat * 256 + x.toNat + 14) ∧
      Written s.SCRATCH t.SCRATCH s.m2d.OPOS.toNat (List.replicate (v.toNat * 256 + x.toNat + 14) c)) ∧
    (65536 < s.m2d.OPOS.toNat + (v.toNat * 256 + x.toNat + 14) → EndsInError (exec (.m2Rptl lo v x c) s) .overflow)

/-- 43_mode2_decode R274: `setup_run` after every length code: `BadDistance`, then `Overflow`, then the copy of the last `DIST` bytes. -/
def Obligations.LengthCodesCopy : Prop :=
  ∀ (i : Instr) (s : State), i.ctx = .m2Length → s.SCRATCH.wf = true →
    (s.m2d.DIST = 0 ∨ s.m2d.OPOS.toNat < s.m2d.DIST.toNat → EndsInError (exec i s) .badDistance) ∧
    (s.m2d.DIST ≠ 0 → s.m2d.DIST.toNat ≤ s.m2d.OPOS.toNat → 65536 < s.m2d.OPOS.toNat + codeLength i →
      EndsInError (exec i s) .overflow) ∧
    (s.m2d.DIST ≠ 0 → s.m2d.DIST.toNat ≤ s.m2d.OPOS.toNat → s.m2d.OPOS.toNat + codeLength i ≤ 65536 →
      ∃ t, exec i s = .next t ∧
        t = { s with SCRATCH := t.SCRATCH, m2d := { s.m2d with RUN := t.m2d.RUN, OPOS := t.m2d.OPOS }, phase := .m2Token } ∧
        t.m2d.RUN.toNat = codeLength i ∧ t.m2d.OPOS.toNat = s.m2d.OPOS.toNat + codeLength i ∧
        Copied s.SCRATCH t.SCRATCH s.m2d.OPOS.toNat s.m2d.DIST.toNat (codeLength i))

/-- 43_mode2_decode R260, R261: the method byte, the first flag group, and the reader as it starts. What `LO`, `BR` and `DIST` hold is a
free value (log 7): the statement is for every value. That the byte after the method byte is the first group of 8 flag bits is G1, from
general knowledge (PRESUMED, log 14); that no item is held is log 6. -/
def Obligations.ChunkStartLoadsReader : Prop :=
  (∀ s : State, s.turns = [] → s.phase = .m2Start → s.CHUNK.len = 0 → EndsInError (step s) .truncatedInput) ∧
  ∀ (method : Byte) (g : Option Byte) (s : State),
    (method ≠ 0 → EndsInError (exec (.m2ChunkStart method g) s) .unsupportedMethod) ∧
    EndsInError (exec (.m2ChunkStart 0 none) s) .outOfData ∧
    ∀ v : Byte, ∃ t, exec (.m2ChunkStart 0 (some v)) s = .next t ∧
      t = { s with
        m2d := { s.m2d with FW := t.m2d.FW, NBITS := 8, OFF := 2, OPOS := 0, RUN := 0,
                            LO := t.m2d.LO, BR := t.m2d.BR, DIST := t.m2d.DIST, tok := [] }
        phase := .m2Token
        fresh := s.fresh + 1 } ∧
      t.m2d.FW.toNat = v.toNat

/-- 43_mode2_decode R262: a flag word fills the reader. -/
def Obligations.FlagWordLoads : Prop :=
  ∀ (w : BitVec 16) (s : State),
    exec (.m2FlagWord w) s = .next { s with m2d := { s.m2d with FW := w, NBITS := 16, OFF := s.m2d.OFF + 2 } }

/-! ## The container records -/

/-- 20_memory R71, R72, 40_framer R151, R152, R153, R158, R160: a record header that the stream cuts off ends in `TruncatedInput`. -/
def Obligations.ShortHeadersTruncated : Prop :=
  ∀ s : State, s.turns = [] →
    (s.phase = .header → s.IN.len < s.SP.toNat + 12 → EndsInError (step s) .truncatedInput) ∧
    (s.phase = .header → 0x80 ≤ (s.IN.get (s.SP.toNat + 3)).toNat → s.IN.len < s.SP.toNat + 20 → EndsInError (step s) .truncatedInput) ∧
    (s.phase = .m3Record → s.IN.len < s.SP.toNat + 12 → EndsInError (step s) .truncatedInput) ∧
    (s.phase = .m2Chunk → s.SUB.len < s.SUBPOS + 2 → EndsInError (step s) .truncatedInput)

/-- 40_framer R152 (with R151, R156): the mode-3 header. With no record OUTLEN is what OUT holds; OUT is empty where a header is read (R150 and
the invariant), and then so is the result. -/
def Obligations.M3HeaderLoadsFields : Prop :=
  ∀ (flag nb cs maxrec us : BitVec 32) (s : State), s.SP.toNat + 20 < 2 ^ 64 → s.OUT.len < 2 ^ 64 →
    (nb ≠ 0 → exec (.m3ContainerHeader flag nb cs maxrec us) s = .next { s with
      fr := { s.fr with FLAG := flag, NB := nb, CS := cs, MAXREC := maxrec, US := us, SEGIDX := 0 }
      SP := BitVec.ofNat 64 (s.SP.toNat + 20)
      phase := .m3Record }) ∧
    (nb = 0 → exec (.m3ContainerHeader flag nb cs maxrec us) s = .next { s with
      fr := { s.fr with FLAG := flag, NB := nb, CS := cs, MAXREC := maxrec, US := us, SEGIDX := 0 }
      SP := BitVec.ofNat 64 (s.SP.toNat + 20)
      STATE := .done, ERR := 0, OUTLEN := BitVec.ofNat 64 s.OUT.len, phase := .waiting }) ∧
    (nb = 0 → s.OUT = Space.zeros 0 → ∃ t, exec (.m3ContainerHeader flag nb cs maxrec us) s = .next t ∧
      t.STATE = .done ∧ t.OUT.toList = [] ∧ t.OUTLEN = 0)

/-- 40_framer R153, R154, R155: a mode-3 record: its errors in order, a token-coded segment started, a stored one appended; after the last
record the command ends as R150 and 70_reset R402 say. -/
def Obligations.M3RecordDemux : Prop :=
  ∀ (bs ubs bt : BitVec 32) (payload : List Byte) (s : State), s.OUT.wf = true → s.SP.toNat + 12 + payload.length < 2 ^ 64 →
    (bs.toNat < 4 → EndsInError (exec (.m3BlockRecord bs ubs bt payload) s) .badHeader) ∧
    (4 ≤ bs.toNat → payload.length < bs.toNat - 4 → EndsInError (exec (.m3BlockRecord bs ubs bt payload) s) .truncatedInput) ∧
    (4 ≤ bs.toNat → payload.length = bs.toNat - 4 → bt = 8 →
      ∃ t, exec (.m3BlockRecord bs ubs bt payload) s = .next t ∧
        t = { s with
          fr := { s.fr with BS := bs, UBS := ubs, BT := bt }
          SEG := t.SEG
          SP := BitVec.ofNat 64 (s.SP.toNat + (12 + payload.length))
          m3d := { IP := 0, OP := 0, A := t.m3d.A, B := t.m3d.B, BASE := s.OUT.len }
          phase := .m3Token
          fresh := s.fresh + 1 } ∧
        t.SEG.toList = payload) ∧
    (4 ≤ bs.toNat → payload.length = bs.toNat - 4 → bt ≠ 8 →
      ∃ t, exec (.m3BlockRecord bs ubs bt payload) s = .next t ∧
        t.fr = { s.fr with BS := bs, UBS := ubs, BT := bt,
                           SEGIDX := if s.fr.SEGIDX.toNat + 1 < s.fr.NB.toNat then s.fr.SEGIDX + 1 else s.fr.SEGIDX } ∧
        t.SEG.toList = payload ∧ t.SP = BitVec.ofNat 64 (s.SP.toNat + (12 + payload.length)) ∧
        Written s.OUT t.OUT s.OUT.len payload ∧ t.OUT.len = s.OUT.len + payload.length ∧
        t.phase = (if s.fr.SEGIDX.toNat + 1 < s.fr.NB.toNat then .m3Record else .waiting) ∧
        t.STATE = (if s.fr.SEGIDX.toNat + 1 < s.fr.NB.toNat then s.STATE else .done) ∧
        t.ERR = (if s.fr.SEGIDX.toNat + 1 < s.fr.NB.toNat then s.ERR else 0) ∧
        (s.fr.SEGIDX.toNat + 1 < s.fr.NB.toNat → t.OUTLEN = s.OUTLEN) ∧
        (s.fr.NB.toNat ≤ s.fr.SEGIDX.toNat + 1 → t.OUT.len < 2 ^ 64 → t.OUTLEN = BitVec.ofNat 64 t.OUT.len) ∧
        t.m3d = s.m3d ∧ t.m2d = s.m2d ∧ t.SCRATCH = s.SCRATCH ∧ t.SUB = s.SUB ∧ t.CHUNK = s.CHUNK ∧ t.SUBPOS = s.SUBPOS)

/-- 40_framer R158, R159: the mode-2 header: its errors in order, the zero-filled output, the sub-stream. -/
def Obligations.M2HeaderAllocates : Prop :=
  ∀ (cs us nb : BitVec 32) (sub : List Byte) (s : State), s.SP.toNat + 12 + sub.length < 2 ^ 64 →
    (cs.toNat < 8 → EndsInError (exec (.m2ContainerHeader cs us nb sub) s) .badHeader) ∧
    (8 ≤ cs.toNat → sub.length < cs.toNat - 8 → EndsInError (exec (.m2ContainerHeader cs us nb sub) s) .truncatedInput) ∧
    (8 ≤ cs.toNat → sub.length = cs.toNat - 8 →
      ∃ t, exec (.m2ContainerHeader cs us nb sub) s = .next t ∧
        t = { s with
          fr := { s.fr with FLAG := cs, CS := cs, US := us, NB := nb, COFF := 0, SEGIDX := 0 }
          SP := BitVec.ofNat 64 (s.SP.toNat + (12 + sub.length))
          OUT := t.OUT, SUB := t.SUB, SUBPOS := 0
          phase := if nb = 0 then .waiting else .m2Chunk
          STATE := if nb = 0 then .done else s.STATE
          ERR := if nb = 0 then 0 else s.ERR
          OUTLEN := if nb = 0 then BitVec.ofNat 64 us.toNat else s.OUTLEN } ∧
        t.OUT.len = us.toNat ∧ (∀ x, t.OUT.get x = 0) ∧ t.SUB.toList = sub)

/-- 40_framer R160: the mode-2 chunk record: its errors in order, and CHUNK. -/
def Obligations.M2ChunkRecordLoads : Prop :=
  ∀ (bs : BitVec 16) (chunk : List Byte) (cont : Option Byte) (s : State),
    (bs.toNat < 2 → EndsInError (exec (.m2ChunkRecord bs chunk cont) s) .badHeader) ∧
    (2 ≤ bs.toNat → chunk.length < bs.toNat - 2 → EndsInError (exec (.m2ChunkRecord bs chunk cont) s) .truncatedInput) ∧
    (2 ≤ bs.toNat → chunk.length = bs.toNat - 2 →
      ∃ t, exec (.m2ChunkRecord bs chunk cont) s = .next t ∧
        t = { s with fr := { s.fr with BS := t.fr.BS }, CHUNK := t.CHUNK, SUBPOS := s.SUBPOS + bs.toNat, phase := .m2Start } ∧
        t.fr.BS.toNat = bs.toNat ∧ t.CHUNK.toList = chunk)

/-- 40_framer R162, R163: the copy-out of a chunk and the stop test, in the rule's order. Where the test stops, the command ends as R150, R164
and 70_reset R402 say: DONE, ERR 0, OUTLEN the length of OUT, which is `US`, and SP where the header left it, just past the
sub-stream. The sub-stream, IN and the framer's other registers stay. -/
def Obligations.CopyOutAndStop : Prop :=
  ∀ s : State, s.turns = [] → s.phase = .m2CopyOut → s.OUT.wf = true → ScratchInv s →
    (s.fr.US.toNat < s.fr.COFF.toNat + s.m2d.OPOS.toNat → EndsInError (step s) .overflow) ∧
    (s.fr.COFF.toNat + s.m2d.OPOS.toNat ≤ s.fr.US.toNat →
      ∃ t, step s = .next t ∧
        (∀ i, i < s.m2d.OPOS.toNat → t.OUT.get (s.fr.COFF.toNat + i) = s.SCRATCH.get i) ∧
        (∀ x, x < s.fr.COFF.toNat ∨ s.fr.COFF.toNat + s.m2d.OPOS.toNat ≤ x → t.OUT.get x = s.OUT.get x) ∧
        (s.OUT.len = s.fr.US.toNat → t.OUT.len = s.fr.US.toNat) ∧
        t.SP = s.SP ∧ t.SUB = s.SUB ∧ t.IN = s.IN ∧
        t.fr = { s.fr with COFF := t.fr.COFF, CONT := t.fr.CONT, SEGIDX := t.fr.SEGIDX } ∧
        t.fr.COFF.toNat = s.fr.COFF.toNat + s.m2d.OPOS.toNat ∧
        (t.phase = .waiting → t.STATE = .done ∧ t.ERR = 0 ∧ (t.OUT.len < 2 ^ 64 → t.OUTLEN = BitVec.ofNat 64 t.OUT.len)) ∧
        (s.fr.US.toNat = s.fr.COFF.toNat + s.m2d.OPOS.toNat →
          t.phase = .waiting ∧ t.SUBPOS = s.SUBPOS ∧ t.fr.CONT = s.fr.CONT ∧ t.fr.SEGIDX = s.fr.SEGIDX) ∧
        (s.fr.COFF.toNat + s.m2d.OPOS.toNat < s.fr.US.toNat → s.SUB.len ≤ s.SUBPOS →
          t.phase = .waiting ∧ t.fr.CONT = s.fr.CONT ∧ t.fr.SEGIDX = s.fr.SEGIDX) ∧
        (s.fr.COFF.toNat + s.m2d.OPOS.toNat < s.fr.US.toNat → s.SUBPOS < s.SUB.len → s.SUB.get s.SUBPOS = 0 →
          t.phase = .waiting ∧ t.fr.CONT = s.fr.CONT ∧ t.fr.SEGIDX = s.fr.SEGIDX) ∧
        (s.fr.COFF.toNat + s.m2d.OPOS.toNat < s.fr.US.toNat → s.SUBPOS < s.SUB.len → s.SUB.get s.SUBPOS ≠ 0 →
          t.fr.CONT = s.SUB.get s.SUBPOS ∧ t.fr.SEGIDX = s.fr.SEGIDX + 1 ∧ t.SUBPOS = s.SUBPOS + 1 ∧
          (s.fr.SEGIDX.toNat + 1 < s.fr.NB.toNat → t.phase = .m2Chunk ∧ t.STATE = s.STATE ∧ t.ERR = s.ERR ∧ t.OUTLEN = s.OUTLEN) ∧
          (s.fr.NB.toNat ≤ s.fr.SEGIDX.toNat + 1 → t.phase = .waiting)))

/-- 40_framer R157: the fields the mode-3 decoder does not check reach nothing but their own registers. -/
def Obligations.HeaderFieldsUnchecked : Prop :=
  (∀ (flag nb cs maxrec us flag' cs' maxrec' us' : BitVec 32) (s t : State),
    exec (.m3ContainerHeader flag nb cs maxrec us) s = .next t →
    exec (.m3ContainerHeader flag' nb cs' maxrec' us') s
      = .next { t with fr := { t.fr with FLAG := flag', CS := cs', MAXREC := maxrec', US := us' } }) ∧
  (∀ (i : Instr) (flag cs maxrec us : BitVec 32) (s t : State), i.ctx = .m3Record ∨ i.ctx = .m3Token → exec i s = .next t →
    exec i { s with fr := { s.fr with FLAG := flag, CS := cs, MAXREC := maxrec, US := us } }
      = .next { t with fr := { t.fr with FLAG := flag, CS := cs, MAXREC := maxrec, US := us } }) ∧
  (∀ (i : Instr) (flag cs maxrec us ubs : BitVec 32) (s t : State), i.ctx = .m3Token → exec i s = .next t →
    exec i { s with fr := { s.fr with FLAG := flag, CS := cs, MAXREC := maxrec, US := us, UBS := ubs } }
      = .next { t with fr := { t.fr with FLAG := flag, CS := cs, MAXREC := maxrec, US := us, UBS := ubs } }) ∧
  ∀ (bs ubs ubs' bt : BitVec 32) (payload : List Byte) (s t : State),
    exec (.m3BlockRecord bs ubs bt payload) s = .next t →
    exec (.m3BlockRecord bs ubs' bt payload) s = .next { t with fr := { t.fr with UBS := ubs' } }

/-! ## Frames and whole-machine rules -/

/-- 10_state R31, R41, 20_memory R70: no instruction writes what only the host writes. 00_scope R2: none writes the encoders' registers, nor
their results (log 11). The schedule (log 1) and the policy (log 10) are the model's own.
Nor does any other step of the engine write IN, CMD, MODE or the policy.
A turn of the engine inside a schedule is the step the engine makes with no schedule, and leaves the rest of the schedule (log 1): so what is
stated of steps with no turn scheduled holds of it. -/
def Obligations.InstructionsKeepHostState : Prop :=
  (∀ (i : Instr) (s t : State), exec i s = .next t →
    t.IN = s.IN ∧ t.CMD = s.CMD ∧ t.MODE = s.MODE ∧ t.m3e = s.m3e ∧ t.m2e = s.m2e ∧ t.recs = s.recs ∧
    t.turns = s.turns ∧ t.policy = s.policy) ∧
  (∀ s t : State, s.turns = [] → step s = .next t → t.IN = s.IN ∧ t.CMD = s.CMD ∧ t.MODE = s.MODE ∧ t.policy = s.policy) ∧
  ∀ (s : State) (r : List Turn), s.turns = .engine :: r →
    (∀ t, step { s with turns := [] } = .next t → step s = .next { t with turns := r }) ∧
    (∀ f, step { s with turns := [] } = .fault f → step s = .fault f) ∧
    ∀ f, step { s with turns := [] } ≠ .refused f

/-- 00_scope R2: the mode-3 tokens leave the mode-2 decoder and the framer alone; the mode-2 instructions of a chunk leave the mode-3
decoder, the framer and, unless they end in an error, OUT, OUTLEN and SP alone. -/
def Obligations.UnitsAreIndependent : Prop :=
  ∀ (i : Instr) (s t : State), exec i s = .next t →
    (i.ctx = .m3Token →
      t.m2d = s.m2d ∧ t.SCRATCH = s.SCRATCH ∧ t.CHUNK = s.CHUNK ∧ t.SUB = s.SUB ∧ t.SUBPOS = s.SUBPOS ∧ t.SEG = s.SEG ∧ t.fr = s.fr ∧
      (t.STATE ≠ .error → t.SP = s.SP ∧ t.OUTLEN = s.OUTLEN ∧ t.STATE = s.STATE ∧ t.ERR = s.ERR)) ∧
    (i.ctx = .m2Start ∨ i.ctx = .m2Token ∨ i.ctx = .m2Length ∨ i.ctx = .m2FlagWord →
      t.m3d = s.m3d ∧ t.SEG = s.SEG ∧ t.CHUNK = s.CHUNK ∧ t.SUB = s.SUB ∧ t.SUBPOS = s.SUBPOS ∧ t.fr = s.fr ∧
      (t.STATE ≠ .error → t.OUT = s.OUT ∧ t.SP = s.SP ∧ t.OUTLEN = s.OUTLEN ∧ t.STATE = s.STATE ∧ t.ERR = s.ERR))

/-- 10_state R37: only the chunk start and the flag-bit read write `FW` and `NBITS`; no token sets a flag as a side effect. Nor
does one move `OFF`: in this model the reader has taken a token's bytes before it is executed (log 6). -/
def Obligations.TokensSetNoFlags : Prop :=
  ∀ (i : Instr) (s t : State), exec i s = .next t → i.ctx ≠ .m2Start → i.ctx ≠ .m2FlagWord →
    t.m2d.FW = s.m2d.FW ∧ t.m2d.NBITS = s.m2d.NBITS ∧ t.m2d.OFF = s.m2d.OFF

/-- 20_memory R73, 43_mode2_decode R275: an instruction writes SCRATCH only from `OPOS` up to where it
leaves `OPOS`, and never at 65536 or beyond. -/
def Obligations.ScratchNeverOverrun : Prop :=
  ∀ (i : Instr) (s t : State), exec i s = .next t →
    (∀ x, x < s.m2d.OPOS.toNat ∨ t.m2d.OPOS.toNat ≤ x ∨ 65536 ≤ x → t.SCRATCH.get x = s.SCRATCH.get x) ∧
    (s.SCRATCH.len = 65536 → t.SCRATCH.len = 65536)

/-- 20_memory R86 and the frame of the mode-3 tokens: unless it ends in an error, a mode-3 token changes no byte of OUT before the write
position or behind the bytes it writes. -/
def Obligations.Mode3TokensWriteAtCursor : Prop :=
  ∀ (i : Instr) (s t : State), i.ctx = .m3Token → exec i s = .next t → t.STATE ≠ .error →
    s.m3d.OP ≤ t.m3d.OP ∧
    ∀ x, x < s.m3d.BASE + s.m3d.OP ∨ s.m3d.BASE + t.m3d.OP ≤ x → t.OUT.get x = s.OUT.get x

/-- 20_memory R74, R87: what a mode-3 token writes does not depend on the bytes of earlier segments. -/
def Obligations.NoCrossSegmentReference : Prop :=
  ∀ (i : Instr) (s₁ s₂ t₁ t₂ : State), i.ctx = .m3Token → s₁.m3d = s₂.m3d → s₁.OUT.len = s₂.OUT.len →
    s₁.OUT.wf = true → s₂.OUT.wf = true →
    (∀ x, s₁.m3d.BASE ≤ x → s₁.OUT.get x = s₂.OUT.get x) →
    exec i s₁ = .next t₁ → exec i s₂ = .next t₂ → t₁.STATE ≠ .error → t₂.STATE ≠ .error →
    t₁.m3d = t₂.m3d ∧ ∀ x, s₁.m3d.BASE ≤ x → t₁.OUT.get x = t₂.OUT.get x

/-! ## Invariants -/

/-- 20_memory R70 (log 3): every step keeps every byte space in its canonical form. -/
def Obligations.MemoryStaysCanonical : Prop :=
  ∀ s t : State, MemoryInv s → step s = .next t → MemoryInv t

/-- 10_state R31, 60_exceptions R351: every step keeps STATE, ERR and the phase (log 5) in agreement. -/
def Obligations.StatusStaysConsistent : Prop :=
  ∀ s t : State, StatusInv s → step s = .next t → StatusInv t

/-- 10_state R35, R36, 20_memory R72, R73: every step keeps the invariant of the machine: cursors inside their spaces, SCRATCH 65536 bytes,
the flag reader in range, OUT empty until a header is read, the output as long as the rules make it. The canonical form (log 3), the phase (log 5) and the items held (log 6) are
the model's own. -/
def Obligations.InvariantKept : Prop :=
  ∀ s t : State, Inv s → step s = .next t → Inv t

/-- The invariant holds after reset. R44 and R390 leave the spaces and the unit registers unspecified: that the spaces are canonical and the
cursors in range is the model's choice of reset values (logs 2 and 3). -/
def Obligations.InvariantAtReset : Prop := Inv State.reset

/-- 60_exceptions R350, R363: from every state of the invariant a step completes or has no move for the host: the machine never stops with
a fault. -/
def Obligations.NoFaultUnderInvariant : Prop :=
  ∀ s : State, Inv s → ∀ f, step s ≠ .fault f

/-- 43_mode2_decode R277: every step of the decoding of a chunk ends the token loop or uses up some of what is left. -/
def Obligations.ChunkDecodingEnds : Prop :=
  ∀ s t : State, Inv s → s.turns = [] → inM2Token s.phase → step s = .next t → ¬ inM2Token t.phase ∨ chunkWork t < chunkWork s

/-- 41_mode3_decode R208, 70_reset R401: a segment's output is at most 86 times what was read of it, and every token moves `IP` on. -/
def Obligations.SegmentOutputBounded : Prop :=
  ∀ s t : State, Inv s → s.turns = [] → s.phase = .m3Token → s.m3d.OP ≤ 86 * s.m3d.IP.toNat → step s = .next t → t.phase = .m3Token →
    s.m3d.IP.toNat < t.m3d.IP.toNat ∧ t.m3d.OP ≤ 86 * t.m3d.IP.toNat

/-- 20_memory R71, 70_reset R401: the engine only moves SP on, and never past the end of the stream. -/
def Obligations.StreamPositionAdvances : Prop :=
  ∀ s t : State, s.turns = [] → s.IN.len < 2 ^ 64 → s.SP.toNat ≤ s.IN.len → s.STATE ≠ .error → step s = .next t → t.STATE ≠ .error →
    s.SP.toNat ≤ t.SP.toNat ∧ t.SP.toNat ≤ s.IN.len

/-! ## The encoders -/

/-- 44_mode2_encode R303: `run_length` is the longest run of equal bytes at the position, at most 0xFFE. -/
def Obligations.RunLengthIsLongest : Prop :=
  ∀ (S : List Byte) (pos : Nat), pos < S.length →
    1 ≤ runLength S pos ∧ runLength S pos ≤ 0xFFE ∧ pos + runLength S pos ≤ S.length ∧
    (∀ j, j < runLength S pos → S.getD (pos + j) 0 = S.getD pos 0) ∧
    ∀ r, 1 ≤ r → r ≤ 0xFFE → pos + r ≤ S.length → (∀ j, j < r → S.getD (pos + j) 0 = S.getD pos 0) → r ≤ runLength S pos

/-- 44_mode2_encode R304: `longest_match` is the longest match of the window, the nearest of the longest; (1, 0) when none has 2 bytes. -/
def Obligations.LongestMatchIsNearest : Prop :=
  ∀ (S : List Byte) (pos : Nat), pos ≤ S.length →
    (∀ d l, 1 ≤ d → d ≤ min pos 0x1FFF → MatchAt S pos d l → l ≤ (longestMatch S pos).1) ∧
    (longestMatch S pos = (1, 0) ∨
      (2 ≤ (longestMatch S pos).1 ∧ 1 ≤ (longestMatch S pos).2 ∧ (longestMatch S pos).2 ≤ min pos 0x1FFF ∧
        MatchAt S pos (longestMatch S pos).2 (longestMatch S pos).1 ∧
        ∀ d, 1 ≤ d → d < (longestMatch S pos).2 → ¬ MatchAt S pos d (longestMatch S pos).1))

/-- 44_mode2_encode R305: walking the hash chain of the positions before `pos` finds the match R304 defines. The chain of a
scan is that one: if HEAD and NEXT hold the positions before `POS`, a turn leaves them with the positions before the new `POS`. `NEXT` may hold anything to
begin with (the key and the form of the tables are the model's choice, log 22). -/
def Obligations.HashChainFindsLongestMatch : Prop :=
  (∀ (S : List Byte) (pos : Nat) (r : M2EncRegs), r.HEAD = [] → r.NEXT.Pairwise (fun a b => a.1 < b.1) → pos ≤ S.length →
    chainMatch S pos (hashInsertAll S pos 0 r) = longestMatch S pos ∧
    (hashInsertAll S pos 0 r).NEXT.Pairwise (fun a b => a.1 < b.1)) ∧
  ∀ (S : List Byte) (e r t : M2EncRegs), t = m2ScanTurn S r →
    r.HEAD = (hashInsertAll S r.POS 0 e).HEAD → r.NEXT = (hashInsertAll S r.POS 0 e).NEXT →
    t.HEAD = (hashInsertAll S t.POS 0 e).HEAD ∧ t.NEXT = (hashInsertAll S t.POS 0 e).NEXT

/-- 44_mode2_encode R306, R307, R308, R310: which token the reference encoder chooses, its flag bits and bytes in stream order, and how many
bytes it covers; the length code of a reference is the one R309 gives, of which LengthCodesAreCanonical says the bits. A turn of the scan
(R302) takes the candidates at `POS`, writes that token, enters what it covers into the hash chain (R305) and moves `POS` past it; while `POS`
is inside the chunk the engine's step is such a turn. The order of the bits of a field is G3, from
general knowledge (PRESUMED, log 14). -/
def Obligations.TokenChoiceRule : Prop :=
  (∀ (S : List Byte) (pos rlen bl bd : Nat),
    (14 ≤ rlen → bl < rlen → rlen - 14 < 16 → chooseToken S pos rlen bl bd =
      ([.flag true, .flag true, .flag false, .flag false, .flag false, .flag false, .flag false, .byte 1, .flag false,
        .flag ((rlen - 14).testBit 3), .flag ((rlen - 14).testBit 2), .flag ((rlen - 14).testBit 1), .flag ((rlen - 14).testBit 0),
        .byte (S.getD pos 0)], rlen)) ∧
    (14 ≤ rlen → bl < rlen → 16 ≤ rlen - 14 → chooseToken S pos rlen bl bd =
      ([.flag true, .flag true, .flag false, .flag false, .flag false, .flag false, .flag false, .byte 1, .flag true,
        .flag ((rlen - 14).testBit 11), .flag ((rlen - 14).testBit 10), .flag ((rlen - 14).testBit 9), .flag ((rlen - 14).testBit 8),
        .byte (BitVec.ofNat 8 (rlen - 14)), .byte (S.getD pos 0)], rlen)) ∧
    (rlen < 14 ∨ rlen ≤ bl → 2 ≤ bl → bd ≤ 255 → chooseToken S pos rlen bl bd =
      ([.flag true, .flag false, .byte (BitVec.ofNat 8 bd)] ++ encode (lengthCode bl), bl)) ∧
    (rlen < 14 ∨ rlen ≤ bl → 2 ≤ bl → 255 < bd → chooseToken S pos rlen bl bd =
      ([.flag true, .flag true, .flag (bd.testBit 12), .flag (bd.testBit 11), .flag (bd.testBit 10), .flag (bd.testBit 9),
        .flag (bd.testBit 8), .byte (BitVec.ofNat 8 bd)] ++ encode (lengthCode bl), bl)) ∧
    (rlen < 14 ∨ rlen ≤ bl → bl < 2 → chooseToken S pos rlen bl bd = ([.flag false, .byte (S.getD pos 0)], 1))) ∧
  (∀ (S : List Byte) (r t : M2EncRegs) (token : List Item) (covered : Nat), t = m2ScanTurn S r →
    chooseToken S r.POS (runLength S r.POS) (longestMatch S r.POS).1 (longestMatch S r.POS).2 = (token, covered) →
    t.RLEN = runLength S r.POS ∧ t.BL = (longestMatch S r.POS).1 ∧ t.BD = (longestMatch S r.POS).2 ∧ t.POS = r.POS + covered ∧
    t.z = (putItems token r).z ∧ t.GPOS = (putItems token r).GPOS ∧ t.GCAP = (putItems token r).GCAP ∧ t.GN = (putItems token r).GN ∧
    t.HEAD = (hashInsertAll S covered r.POS r).HEAD ∧ t.NEXT = (hashInsertAll S covered r.POS r).NEXT) ∧
  ∀ s : State, s.turns = [] → s.phase = .m2Scan → s.m2e.POS < (m2Chunk s).length →
    step s = .next { s with m2e := m2ScanTurn (m2Chunk s) s.m2e }

/-- 44_mode2_encode R300, R301: the bit writer places every flag bit and byte where the decoder's reader asks for it. Both follow G1 and G2, from
general knowledge (PRESUMED, log 14). -/
def Obligations.BitWriterMirrorsReader : Prop :=
  ∀ (xs : List Item) (e : M2EncRegs) (r : M2DecRegs), (putItems xs (m2ScanStart e)).z.length < 2 ^ 16 - 2 →
    readsBack (Space.ofList (putItems xs (m2ScanStart e)).z) xs
      (loadFirstGroup ((putItems xs (m2ScanStart e)).z.getD 1 0) { r with OFF := 2 }) = true

/-- 42_mode3_encode R232: `best_match` covers the most bytes any allowed repeat covers, with the smallest pattern that does. -/
def Obligations.BestMatchIsLongestRepeat : Prop :=
  ∀ (S : List Byte) (W : Nat), W < S.length →
    (∀ L k, 1 ≤ L → L ≤ min W 255 → RepeatAt S W L k → L * k ≤ (bestMatch S W).1) ∧
    (bestMatch S W = (0, 0) ∨
      (1 ≤ (bestMatch S W).1 ∧ 1 ≤ (bestMatch S W).2 ∧ (bestMatch S W).2 ≤ min W 255 ∧
        (∃ k, (bestMatch S W).1 = (bestMatch S W).2 * k ∧ RepeatAt S W (bestMatch S W).2 k) ∧
        ∀ L k, 1 ≤ L → L < (bestMatch S W).2 → RepeatAt S W L k → L * k < (bestMatch S W).1))

/-- 42_mode3_encode R231, R235, R238: a turn of the scan moves on, stays in the segment, keeps the pending run below 255, and writes at most
three bytes a byte covered; so the payload is at most three times the segment. 44_mode2_encode R302: a turn of the mode-2 scan moves on and
stays in the chunk. -/
def Obligations.ScanStaysInBounds : Prop :=
  (∀ (S : List Byte) (r : M3EncRegs), r.W < S.length → r.LIT ≤ r.W → r.W - r.LIT < 255 → r.z.length ≤ 3 * r.LIT →
    r.W < (m3ScanTurn S r).W ∧ (m3ScanTurn S r).W ≤ S.length ∧ (m3ScanTurn S r).LIT ≤ (m3ScanTurn S r).W ∧
    (m3ScanTurn S r).W - (m3ScanTurn S r).LIT < 255 ∧ (m3ScanTurn S r).z.length ≤ 3 * (m3ScanTurn S r).LIT) ∧
  (∀ (S : List Byte) (r : M3EncRegs), r.W = S.length → r.LIT ≤ r.W → r.z.length ≤ 3 * r.LIT →
    (m3ScanEnd S r).length ≤ 3 * S.length) ∧
  ∀ (S : List Byte) (r : M2EncRegs), r.POS < S.length → r.POS < (m2ScanTurn S r).POS ∧ (m2ScanTurn S r).POS ≤ S.length

/-- 42_mode3_encode R237 (R236 for the reference algorithm): the scan of a segment ends, and the mode-3 decoder gives the segment back.
44_mode2_encode R302, R312, R313: so does the scan of a chunk, its payload fits the u16 field, and the mode-2 decoder gives the chunk back; in
mode 2 both sides follow G1 to G4, from general knowledge (PRESUMED, log 14). -/
def Obligations.ReferencePayloadDecodes : Prop :=
  (∀ S : List Byte, 3 ≤ S.length → S.length ≤ 0x40000 →
    ∃ n, (∀ m, m < n → ((m3ScanTurn S)^[m] m3ScanStart).W < S.length) ∧
      ((m3ScanTurn S)^[n] m3ScanStart).W = S.length ∧
      decodeM3Payload (m3ScanEnd S ((m3ScanTurn S)^[n] m3ScanStart)) = some S) ∧
  ∀ (S : List Byte) (e : M2EncRegs), S.length ≤ 0x7FF0 →
    ∃ n, (∀ m, m < n → ((m2ScanTurn S)^[m] (m2ScanStart e)).POS < S.length) ∧
      ((m2ScanTurn S)^[n] (m2ScanStart e)).POS = S.length ∧
      (m2ScanEnd ((m2ScanTurn S)^[n] (m2ScanStart e))).z.length + 2 ≤ 0xFFFF ∧
      decodeM2Payload (m2ScanEnd ((m2ScanTurn S)^[n] (m2ScanStart e))).z = some S

/-- 42_mode3_encode R230, 40_framer R174: a segment of at most 2 bytes is stored, under either policy; a longer one is scanned under REFERENCE.
R236: under ANY_CONFORMING it is kept with type 8 and the payload the policy's free value proposes when that payload decodes to the segment,
and scanned otherwise (log 10): so what is kept always decodes to its segment. R231, R233, R235: what one turn of the scan writes: the pending
literals and the M3_REF of a match of 2 bytes or more, else nothing until 255 literals are pending. R230, R231, R234: while `W` is inside the
segment the engine's step is such a turn, and at its end the pending literals are written and the segment kept with type 8. -/
def Obligations.ShortSegmentsStored : Prop :=
  (∀ s : State, s.turns = [] → s.phase = .m3Split → s.recs.length < m3SegmentCount s.IN.len →
    ((m3Segment s).length ≤ 2 → step s = .next { s with
      fr := { s.fr with SEGIDX := BitVec.ofNat 32 s.recs.length }
      recs := s.recs ++ [{ ulen := (m3Segment s).length, bt := 0, z := m3Segment s }] }) ∧
    (2 < (m3Segment s).length → s.policy = .reference → step s = .next { s with
      fr := { s.fr with SEGIDX := BitVec.ofNat 32 s.recs.length }
      m3e := { W := 0, LIT := 0, BESTLEN := 0, BESTL := 0, z := [] }
      phase := .m3Scan }) ∧
    (2 < (m3Segment s).length → s.policy = .anyConforming → ∃ t, step s = .next t ∧
      t.fr = { s.fr with SEGIDX := BitVec.ofNat 32 s.recs.length } ∧
      if decodeM3Payload (Config.freeM3Payload s.fresh (m3Segment s)) = some (m3Segment s) then
        t.phase = .m3Split ∧
        t.recs = s.recs ++ [{ ulen := (m3Segment s).length, bt := 8, z := Config.freeM3Payload s.fresh (m3Segment s) }]
      else t.phase = .m3Scan ∧ t.recs = s.recs ∧ t.m3e = { W := 0, LIT := 0, BESTLEN := 0, BESTL := 0, z := [] })) ∧
  (∀ (S : List Byte) (r : M3EncRegs) (len pat : Nat), bestMatch S r.W = (len, pat) →
    (2 ≤ len → m3ScanTurn S r = {
      W := r.W + len + 1, LIT := r.W + len + 1, BESTLEN := len, BESTL := pat
      z := r.z ++ (if r.LIT < r.W then [0, BitVec.ofNat 8 (r.W - r.LIT)] ++ (S.drop r.LIT).take (r.W - r.LIT) else [])
        ++ [BitVec.ofNat 8 len, BitVec.ofNat 8 (pat - 1), S.getD (r.W + len) 0] }) ∧
    (len < 2 → r.W + 1 - r.LIT = 255 → m3ScanTurn S r = {
      W := r.W + 1, LIT := r.W + 1, BESTLEN := len, BESTL := pat, z := r.z ++ [0, 255] ++ (S.drop r.LIT).take 255 }) ∧
    (len < 2 → r.W + 1 - r.LIT ≠ 255 → m3ScanTurn S r = { r with W := r.W + 1, BESTLEN := len, BESTL := pat })) ∧
  ∀ s : State, s.turns = [] → s.phase = .m3Scan →
    (s.m3e.W < (m3Segment s).length → step s = .next { s with m3e := m3ScanTurn (m3Segment s) s.m3e }) ∧
    ((m3Segment s).length ≤ s.m3e.W → ∃ z : List Byte,
      z = s.m3e.z ++ (if s.m3e.LIT < (m3Segment s).length then
            [0, BitVec.ofNat 8 ((m3Segment s).length - s.m3e.LIT)]
              ++ ((m3Segment s).drop s.m3e.LIT).take ((m3Segment s).length - s.m3e.LIT)
          else []) ∧
      step s = .next { s with
        m3e := { s.m3e with z := z }
        recs := s.recs ++ [{ ulen := (m3Segment s).length, bt := 8, z := z }]
        phase := .m3Split })

/-- 40_framer R173, R183: the containers of the empty buffer, 32 bytes in mode 3 and 12 in mode 2. -/
def Obligations.EmptyInputContainers : Prop :=
  (∀ s : State, s.turns = [] → s.phase = .m3Split → s.recs = [] → s.IN.len = 0 →
    ∃ t, Host.Core.run core 3 s = .next t ∧ t.STATE = .done ∧ t.ERR = 0 ∧ t.OUTLEN = 32 ∧
      t.OUT.toList = [1, 0, 0, 0x80, 1, 0, 0, 0, 12, 0, 0, 0, 12, 0, 0, 0, 0, 0, 0, 0,
                      4, 0, 0, 0, 0, 0, 0, 0, 0, 0, 0, 0]) ∧
  ∀ s : State, s.turns = [] → s.phase = .m2Split → s.recs = [] → s.IN.len = 0 →
    ∃ t, step s = .next t ∧ t.STATE = .done ∧ t.ERR = 0 ∧ t.OUTLEN = 12 ∧
      t.OUT.toList = [8, 0, 0, 0, 0, 0, 0, 0, 0, 0, 0, 0]

/-- 40_framer R175, R185: what does not fit a container's fields ends in `SegmentTooLarge`: in mode 3 a buffer, a CS, a MAXREC, a record's
`len(z) + 4` or a number of segments of 2^32 or more; in mode 2 a buffer or a number of chunks of 2^32 or more, or a CS of 2^31 or more. -/
def Obligations.OversizedBufferRejected : Prop :=
  ∀ s : State, s.turns = [] →
    (s.phase = .m3Split → m3SegmentCount s.IN.len ≤ s.recs.length →
      2 ^ 32 ≤ s.IN.len ∨ 2 ^ 32 ≤ (s.recs.map fun r => r.z.length + 12).sum ∨ (∃ r ∈ s.recs, 2 ^ 32 ≤ r.z.length + 12) ∨
        (∃ r ∈ s.recs, 2 ^ 32 ≤ r.z.length + 4) ∨ 2 ^ 32 ≤ s.recs.length →
      EndsInError (step s) .segmentTooLarge) ∧
    (s.phase = .m2Split → m2ChunkCount s.IN.len ≤ s.recs.length →
      2 ^ 32 ≤ s.IN.len ∨ 2 ^ 31 ≤ 8 + (s.recs.map fun r => r.z.length + 3).sum ∨ 2 ^ 32 ≤ s.recs.length →
      EndsInError (step s) .segmentTooLarge)

/-- 40_framer R171: after the last segment, the mode-3 container header, every field of it from the encoded segments. -/
def Obligations.M3HeaderWritten : Prop :=
  ∀ s : State, s.turns = [] → s.phase = .m3Split → s.recs.length = m3SegmentCount s.IN.len → s.IN.len < 2 ^ 32 →
    (s.recs.map fun r => r.z.length + 12).sum < 2 ^ 32 →
    ∃ t, step s = .next t ∧ t.phase = .m3Write ∧ t.STATE = s.STATE ∧ t.fr.SEGIDX = 0 ∧ t.recs = s.recs ∧
      t.fr.CS.toNat = (s.recs.map fun r => r.z.length + 12).sum ∧ t.fr.US.toNat = s.IN.len ∧ t.fr.NB.toNat = s.recs.length ∧
      (∀ r ∈ s.recs, r.z.length + 12 ≤ t.fr.MAXREC.toNat) ∧ (∃ r ∈ s.recs, t.fr.MAXREC.toNat = r.z.length + 12) ∧
      t.OUT.toList = u32le 0x80000001 ++ u32le t.fr.NB ++ u32le t.fr.CS ++ u32le t.fr.MAXREC ++ u32le t.fr.US

/-- 40_framer R172: each step of the writing appends one record, keeping those still to be written, and the last ends the command as R170 and 70_reset
R402 say. -/
def Obligations.M3RecordsWritten : Prop :=
  ∀ (s : State) (r : Rec), s.turns = [] → s.phase = .m3Write → s.OUT.wf = true → s.recs[s.fr.SEGIDX.toNat]? = some r →
    r.z.length + 4 < 2 ^ 32 → r.ulen < 2 ^ 32 → s.recs.length < 2 ^ 32 →
    ∃ t, step s = .next t ∧ t.recs = s.recs ∧
      t.OUT.toList = s.OUT.toList ++ u32le (BitVec.ofNat 32 (r.z.length + 4)) ++ u32le (BitVec.ofNat 32 r.ulen) ++ u32le r.bt ++ r.z ∧
      (s.fr.SEGIDX.toNat + 1 < s.recs.length → t.phase = .m3Write ∧ t.STATE = s.STATE ∧ t.fr.SEGIDX.toNat = s.fr.SEGIDX.toNat + 1) ∧
      (s.fr.SEGIDX.toNat + 1 = s.recs.length → t.phase = .waiting ∧ t.STATE = .done ∧ t.ERR = 0 ∧
        (t.OUT.len < 2 ^ 64 → t.OUTLEN = BitVec.ofNat 64 t.OUT.len))

/-- 40_framer R181, 44_mode2_encode R311, R312: at the end of a chunk's scan M2_END is written and the chunk kept, unless its length does
not fit the u16 field: then `SegmentTooLarge`. R302, R313: before that the chunk is scanned under REFERENCE, from the start R300 gives; under
ANY_CONFORMING it is kept with the payload the policy's free value proposes when that payload fits and decodes to the chunk, and scanned
otherwise (log 10): so what is kept so always decodes to its chunk. -/
def Obligations.M2ChunkKept : Prop :=
  (∀ s : State, s.turns = [] → s.phase = .m2Scan → (m2Chunk s).length ≤ s.m2e.POS →
    (0xFFFF < (putItems (encode .m2End) s.m2e).z.length + 2 → EndsInError (step s) .segmentTooLarge) ∧
    ((putItems (encode .m2End) s.m2e).z.length + 2 ≤ 0xFFFF → ∃ t, step s = .next t ∧ t.phase = .m2Split ∧ t.STATE = s.STATE ∧
      t.recs = s.recs ++ [{ ulen := (m2Chunk s).length, bt := 0, z := (putItems (encode .m2End) s.m2e).z }] ∧
      t.fr.BS.toNat = (putItems (encode .m2End) s.m2e).z.length + 2 ∧
      t.fr.CONT = (if s.recs.length + 1 < m2ChunkCount s.IN.len then 1 else 0))) ∧
  ∀ s : State, s.turns = [] → s.phase = .m2Split → s.recs.length < m2ChunkCount s.IN.len →
    ∃ t, step s = .next t ∧ t.STATE = s.STATE ∧ t.fr.SEGIDX = BitVec.ofNat 32 s.recs.length ∧
      if s.policy = .anyConforming ∧ (Config.freeM2Payload s.fresh (m2Chunk s)).length + 2 ≤ 0xFFFF ∧
          decodeM2Payload (Config.freeM2Payload s.fresh (m2Chunk s)) = some (m2Chunk s) then
        t.phase = .m2Split ∧
        t.recs = s.recs ++ [{ ulen := (m2Chunk s).length, bt := 0, z := Config.freeM2Payload s.fresh (m2Chunk s) }] ∧
        t.fr.BS.toNat = (Config.freeM2Payload s.fresh (m2Chunk s)).length + 2 ∧
        t.fr.CONT = (if s.recs.length + 1 < m2ChunkCount s.IN.len then 1 else 0)
      else
        t.phase = .m2Scan ∧ t.recs = s.recs ∧ t.m2e.POS = 0 ∧ t.m2e.GPOS = 1 ∧ t.m2e.GCAP = 8 ∧ t.m2e.GN = 0 ∧ t.m2e.HEAD = [] ∧
        t.m2e.z = [0, 0]

/-- 40_framer R181, R182: after the last chunk, the mode-2 container: the header and, for every chunk, its length, its payload and the
continuation byte, 1 but after the last chunk. -/
def Obligations.M2ContainerWritten : Prop :=
  ∀ s : State, s.turns = [] → s.phase = .m2Split → m2ChunkCount s.IN.len ≤ s.recs.length → s.IN.len < 2 ^ 32 →
    s.recs.length < 2 ^ 32 → (∀ r ∈ s.recs, r.z.length + 2 ≤ 0xFFFF) → 8 + (s.recs.map fun r => r.z.length + 3).sum < 2 ^ 31 →
    ∃ t, step s = .next t ∧ t.STATE = .done ∧ t.ERR = 0 ∧ t.OUTLEN.toNat = t.OUT.len ∧
      t.OUT.toList =
        u32le (BitVec.ofNat 32 (8 + (s.recs.map fun r => r.z.length + 3).sum)) ++ u32le (BitVec.ofNat 32 s.IN.len)
          ++ u32le (BitVec.ofNat 32 s.recs.length)
          ++ s.recs.zipIdx.flatMap fun c =>
              u16le (BitVec.ofNat 16 (c.1.z.length + 2)) ++ c.1.z ++ [if c.2 + 1 < s.recs.length then 1 else 0]
end

