-- ==== Sys2Proof/Tests/Slice0.lean ====
section
/-! SUPPORT. The model's own tests: ill-formed terms, words written out from 30_encoding, single steps with the results 95_test_vectors
gives, and for every statement with hypotheses a state and operands that meet them. -/

namespace Sys2Proof.Tests

open Sys2Proof.Machine Sys2Proof.Safety

/-! ## Helpers -/

/-- The flag bit 1. -/
abbrev T : Item := .flag true
/-- The flag bit 0. -/
abbrev F : Item := .flag false

/-- The outcome is a next state of which `p` holds. -/
def nextIs (o : Host.Outcome State Fault Refusal) (p : State → Bool) : Bool :=
  match o with
  | .next t => p t
  | .fault _ => false
  | .refused _ => false

/-- The outcome is a next state. -/
def isNext (o : Host.Outcome State Fault Refusal) : Bool := nextIs o fun _ => true

/-- A running command at the phase `p`. -/
def busyAt (p : Phase) : State := { State.reset with STATE := .busy, phase := p }

/-- A mode-3 segment of one record being decoded, from its first byte. -/
def inSegment (bytes : List Byte) : State :=
  { busyAt .m3Token with SEG := Space.ofList bytes, fr := { FramerRegs.zero with NB := 1 } }

/-- The same with `out` produced and `IP` at `ip`. -/
def midSegment (bytes out : List Byte) (ip : BitVec 32) : State :=
  { inSegment bytes with
    OUT := Space.ofList out, m3d := { IP := ip, OP := out.length, A := 0, B := 0, BASE := 0 } }

/-- A mode-2 chunk being decoded, with the reader at `off`, `n` bits of `fw` left and the items `tok` held. -/
def inChunk (p : Phase) (bytes : List Byte) (off fw : BitVec 16) (n : BitVec 5) (tok : List Item) : State :=
  { busyAt p with CHUNK := Space.ofList bytes, m2d := { State.reset.m2d with OFF := off, FW := fw, NBITS := n, tok := tok } }

/-- A mode-2 chunk of which `out` was produced. -/
def produced (out : List Byte) : State :=
  { busyAt .m2Token with
    SCRATCH := (Space.zeros 65536).setAll 0 out, m2d := { State.reset.m2d with OPOS := BitVec.ofNat 17 out.length } }

/-- A mode-2 chunk with `OPOS` at `n` and the distance `d` held. -/
def atOpos (n : BitVec 17) (d : BitVec 13) : State :=
  { busyAt .m2Length with m2d := { State.reset.m2d with OPOS := n, DIST := d } }

/-- The engine at the container header of these bytes. -/
def atStream (p : Phase) (bytes : List Byte) : State := { busyAt p with IN := Space.ofList bytes }

/-- The host's turn. -/
def hostTurn (a : HostAction) (e : EngineState) : State := { State.reset with STATE := e, turns := [.host a] }

/-! ## Ill-formed terms -/

/-- Each check of WellFormed refuses a term that breaks it (30_encoding R102 to R123). -/
theorem test_wellFormed_refuses :
    WellFormed (.m3Lit 2 [1]) = false ∧ WellFormed (.m3Ref 0 1 (some 2)) = false ∧ WellFormed (.m3Ref 1 1 none) = false ∧
    WellFormed (.m2Lref 0 1) = false ∧ WellFormed (.m2Aref 2) = false ∧ WellFormed (.m2Rpts 0 1 1) = false ∧
    WellFormed (.m2Rptl 3 1 1 1) = false ∧ WellFormed (.m2ChunkStart 1 (some 0)) = false ∧ WellFormed (.m2ChunkStart 0 none) = false ∧
    WellFormed (.m3ContainerHeader 0x7FFFFFFF 0 0 0 0) = false ∧ WellFormed (.m3BlockRecord 3 0 0 []) = false ∧
    WellFormed (.m3BlockRecord 6 0 0 [1]) = false ∧ WellFormed (.m2ContainerHeader 0x80000000 0 0 []) = false ∧
    WellFormed (.m2ContainerHeader 7 0 0 []) = false ∧ WellFormed (.m2ContainerHeader 9 0 0 []) = false ∧
    WellFormed (.m2ChunkRecord 1 [] none) = false ∧ WellFormed (.m2ChunkRecord 3 [] none) = false := by decide

/-! ## Words written out from the encodings -/

/-- R102, V-S1. -/
theorem test_decode_m3Lit : decode .m3Token (byteItems [0, 3, 0x61, 0x62, 0x63]) = .ok (.m3Lit 3 [0x61, 0x62, 0x63]) [] := by decide
/-- R103, V-S2; the byte after the token is left. -/
theorem test_decode_m3Ref : decode .m3Token (byteItems [2, 1, 0x64, 9]) = .ok (.m3Ref 2 1 (some 0x64)) [.byte 9] := by decide
/-- R109: flag 0, byte. -/
theorem test_decode_m2Lit : decode .m2Token [F, .byte 0x71] = .ok (.m2Lit 0x71) [] := by decide
/-- R110: flags 1, 0, byte. -/
theorem test_decode_m2Sref : decode .m2Token [T, F, .byte 2, T] = .ok (.m2Sref 2) [T] := by decide
/-- R111, R268: flags 1, 1, 0, 0, 0, 0, 1 and byte 2C are the distance 300. -/
theorem test_decode_m2Lref :
    decode .m2Token [T, T, F, F, F, F, T, .byte 0x2C] = .ok (.m2Lref 1 0x2C) [] ∧ lrefDistance 1 0x2C = 300 := by decide
/-- R107, R111: the five flag bits are most significant first: 1, 0, 0, 1, 0 is 18. -/
theorem test_decode_m2Lref_order : decode .m2Token [T, T, T, F, F, T, F, .byte 7] = .ok (.m2Lref 18 7) [] := by decide
/-- R112: low byte 3 or more. -/
theorem test_decode_m2Aref : decode .m2Token [T, T, F, F, F, F, F, .byte 3] = .ok (.m2Aref 3) [] := by decide
/-- R113: low byte 0. -/
theorem test_decode_m2End : decode .m2Token [T, T, F, F, F, F, F, .byte 0] = .ok .m2End [] := by decide
/-- R115, R272: byte 01, flags 0, 0, 0, 1, 0, byte 7A: `z` 16 times. -/
theorem test_decode_m2Rpts :
    decode .m2Token [T, T, F, F, F, F, F, .byte 1, F, F, F, T, F, .byte 0x7A] = .ok (.m2Rpts 1 2 0x7A) [] ∧ shortCount 2 = 16 := by
  decide
/-- R115, P2: branch 1, bits 0, 0, 0, 1, byte 1D: `x` 299 times. -/
theorem test_decode_m2Rptl :
    decode .m2Token [T, T, F, F, F, F, F, .byte 1, T, F, F, F, T, .byte 0x1D, .byte 0x78] = .ok (.m2Rptl 1 1 0x1D 0x78) [] ∧
    longCount 1 0x1D = 299 := by decide
/-- R114. -/
theorem test_decode_len2 : decode .m2Length [T] = .ok .len2 [] := by decide
/-- R114. -/
theorem test_decode_len3 : decode .m2Length [F, T] = .ok .len3 [] := by decide
/-- R114. -/
theorem test_decode_len4 : decode .m2Length [F, F, T] = .ok .len4 [] := by decide
/-- R114. -/
theorem test_decode_len5 : decode .m2Length [F, F, F, T] = .ok .len5 [] := by decide
/-- R114: x = 1, 1, 0 is 6, the length 12 (V-E13). -/
theorem test_decode_len6to13 :
    decode .m2Length [F, F, F, F, T, T, T, F] = .ok (.len6to13 6) [] ∧ midLength 6 = 12 := by decide
/-- R114: the longest length, 269 (V-D12). -/
theorem test_decode_len14to269 :
    decode .m2Length [F, F, F, F, F, .byte 0xFF] = .ok (.len14to269 0xFF) [] ∧ byteLength 0xFF = 269 := by decide
/-- R105, V-D1: the method byte and the first group. -/
theorem test_decode_m2ChunkStart : decode .m2Start (byteItems [0, 6]) = .ok (.m2ChunkStart 0 (some 6)) [] := by decide
/-- R106, P2: the bytes 71 68 are the word 0x6871. -/
theorem test_decode_m2FlagWord : decode .m2FlagWord (byteItems [0x71, 0x68]) = .ok (.m2FlagWord 0x6871) [] := by decide
/-- R120, V-F3. -/
theorem test_decode_m3ContainerHeader :
    decode .container (byteItems [1, 0, 0, 0x80, 1, 0, 0, 0, 0xD, 0, 0, 0, 0xD, 0, 0, 0, 1, 0, 0, 0])
      = .ok (.m3ContainerHeader 0x80000001 1 13 13 1) [] := by decide
/-- R121, V-F3. -/
theorem test_decode_m3BlockRecord :
    decode .m3Record (byteItems [5, 0, 0, 0, 1, 0, 0, 0, 0, 0, 0, 0, 0x41]) = .ok (.m3BlockRecord 5 1 0 [0x41]) [] := by decide
/-- R122, V-F4. -/
theorem test_decode_m2ContainerHeader :
    decode .container (byteItems [0xF, 0, 0, 0, 1, 0, 0, 0, 1, 0, 0, 0, 6, 0, 0, 6, 0x71, 0, 0])
      = .ok (.m2ContainerHeader 15 1 1 [6, 0, 0, 6, 0x71, 0, 0]) [] := by decide
/-- R123, V-F6: with its continuation byte. -/
theorem test_decode_m2ChunkRecord :
    decode .m2Chunk (byteItems [6, 0, 0, 6, 0x71, 0, 1]) = .ok (.m2ChunkRecord 6 [0, 6, 0x71, 0] (some 1)) [] := by decide
/-- R104: a cut control pair is rejected by name. -/
theorem test_decode_short : decode .m3Token (byteItems [5]) = .needByte ∧ decode .m2Token [T] = .needFlag := by decide

/-! ## Single steps -/

/-- V-S1. -/
theorem test_m3Lit : nextIs (step (inSegment [0, 3, 0x61, 0x62, 0x63]))
    (fun t => t.OUT.toList == [0x61, 0x62, 0x63] && t.m3d.IP == 5 && t.m3d.OP == 3) = true := by decide +kernel
/-- V-M10: the segment ends inside the run. -/
theorem test_m3Lit_short : nextIs (step (inSegment [0, 3, 0x61, 0x62])) (fun t => t.ERR == 1 && t.STATE == .error) = true := by
  decide +kernel
/-- V-M5: distance 2 shorter than the run of 5. -/
theorem test_m3Ref_overlap : nextIs (step (midSegment [0, 2, 0x61, 0x62, 5, 1, 0x63] [0x61, 0x62] 4))
    (fun t => t.OUT.toList == [0x61, 0x62, 0x61, 0x62, 0x61, 0x62, 0x61, 0x63] && t.m3d.IP == 7) = true := by decide +kernel
/-- V-M12: distance 2 with one byte produced. -/
theorem test_m3Ref_badDistance : nextIs (step (midSegment [0, 1, 0x61, 1, 1, 0x62] [0x61] 3)) (fun t => t.ERR == 5) = true := by
  decide +kernel
/-- P2: the flag bit of M2_LIT is bit 0 of the first group 06, and three bits of 8 items are left in order. -/
theorem test_readFlag : nextIs (step (inChunk .m2Token [0, 6, 0x41] 2 6 8 []))
    (fun t => t.m2d.FW == 3 && t.m2d.NBITS == 7 && t.m2d.tok == [F] && t.m2d.OFF == 2) = true := by decide +kernel
/-- P2: with no bit left the word 71 68 at OFF 4 is fetched. -/
theorem test_flagWord : nextIs (step (inChunk .m2Token [0, 6, 0x41, 1, 0x71, 0x68] 4 0 0 [T]))
    (fun t => t.m2d.FW == 0x6871 && t.m2d.NBITS == 16 && t.m2d.OFF == 6) = true := by decide +kernel
/-- V-S4: the flag-word fetch finds one byte. -/
theorem test_flagWord_short : nextIs (step (inChunk .m2Token [0, 0, 0x41] 2 0 0 [])) (fun t => t.ERR == 3) = true := by decide +kernel
/-- V-D31: a literal at a full SCRATCH. -/
theorem test_m2Lit_full : nextIs (exec (.m2Lit 0x41) (atOpos 65536 0)) (fun t => t.ERR == 7) = true := by decide +kernel
/-- V-D1: the literal `q`. -/
theorem test_m2Lit : nextIs (exec (.m2Lit 0x71) (produced []))
    (fun t => t.SCRATCH.get 0 == 0x71 && t.m2d.OPOS == 1) = true := by decide +kernel
/-- V-D26: distance 0 is refused only after its length code. -/
theorem test_m2Sref_zero : nextIs (exec (.m2Sref 0) (produced [1])) (fun t => t.phase == .m2Length && t.m2d.DIST == 0) = true ∧
    nextIs (exec .len2 (atOpos 1 0)) (fun t => t.ERR == 5) = true := by decide +kernel
/-- P2: the distance 300. -/
theorem test_m2Lref : nextIs (exec (.m2Lref 1 0x2C) (produced [1])) (fun t => t.m2d.DIST == 300 && t.m2d.RUN == 1) = true := by
  decide +kernel
/-- V-D5: the alias reference of distance 3 and length 2 after `abc`. -/
theorem test_m2Aref : nextIs (exec (.m2Aref 3) (produced [0x61, 0x62, 0x63])) (fun t => nextIs (exec .len2 t)
    (fun u => u.SCRATCH.slice 0 5 == [0x61, 0x62, 0x63, 0x61, 0x62] && u.m2d.OPOS == 5)) = true := by decide +kernel
/-- V-D2: M2_END leaves the loop with nothing produced. -/
theorem test_m2End : nextIs (exec .m2End (produced [])) (fun t => t.phase == .m2CopyOut && t.m2d.OPOS == 0) = true := by decide +kernel
/-- V-D7: `z` 16 times. -/
theorem test_m2Rpts : nextIs (exec (.m2Rpts 1 2 0x7A) (produced []))
    (fun t => t.SCRATCH.slice 0 17 == List.replicate 16 0x7A ++ [0] && t.m2d.OPOS == 16) = true := by decide +kernel
/-- V-D8: the long form in the range of the short one. -/
theorem test_m2Rptl : nextIs (exec (.m2Rptl 1 0 0 0x7A) (produced [])) (fun t => t.m2d.OPOS == 14 && t.m2d.RUN == 14) = true := by
  decide +kernel
/-- V-D13: lengths 3, 4 and 5 at distance 1. -/
theorem test_len3 : nextIs (exec .len3 (atOpos 1 1)) (fun t => t.m2d.OPOS == 4) = true ∧
    nextIs (exec .len4 (atOpos 4 1)) (fun t => t.m2d.OPOS == 8) = true := by decide +kernel
/-- V-D3: output `ab`, distance 2, length 5. -/
theorem test_len5 : nextIs (exec .len5 { produced [0x61, 0x62] with m2d := { (produced [0x61, 0x62]).m2d with DIST := 2 } })
    (fun t => t.SCRATCH.slice 0 8 == [0x61, 0x62, 0x61, 0x62, 0x61, 0x62, 0x61, 0]) = true := by decide +kernel
/-- V-D10, V-D12: lengths 13 and 269 from one byte. -/
theorem test_len_long : nextIs (exec (.len6to13 7) (atOpos 1 1)) (fun t => t.m2d.OPOS == 14) = true ∧
    nextIs (exec (.len14to269 0xFF) (atOpos 1 1)) (fun t => t.m2d.OPOS == 270) = true := by decide +kernel
/-- V-D21, V-D22, V-D1. -/
theorem test_m2ChunkStart : nextIs (exec (.m2ChunkStart 1 (some 0)) (busyAt .m2Start)) (fun t => t.ERR == 2) = true ∧
    nextIs (exec (.m2ChunkStart 0 none) (busyAt .m2Start)) (fun t => t.ERR == 3) = true ∧
    nextIs (exec (.m2ChunkStart 0 (some 6)) (busyAt .m2Start)) (fun t => t.m2d.FW == 6 && t.m2d.NBITS == 8 && t.m2d.OFF == 2) = true := by
  decide +kernel
/-- V-F15: no record. -/
theorem test_m3ContainerHeader : nextIs (step (atStream .header [1, 0, 0, 0x80, 0, 0, 0, 0, 0, 0, 0, 0, 0, 0, 0, 0, 0, 0, 0, 0]))
    (fun t => t.STATE == .done && t.OUTLEN == 0 && t.SP == 20) = true := by decide +kernel
/-- V-F18, V-F3d. -/
theorem test_m3BlockRecord : nextIs (exec (.m3BlockRecord 3 0 0 []) (busyAt .m3Record)) (fun t => t.ERR == 6) = true ∧
    nextIs (exec (.m3BlockRecord 5 1 0 [0x41]) (busyAt .m3Record)) (fun t => t.OUT.toList == [0x41] && t.STATE == .done) = true := by
  decide +kernel
/-- V-F28, V-F29. -/
theorem test_m2ContainerHeader : nextIs (exec (.m2ContainerHeader 7 0 0 []) (busyAt .header)) (fun t => t.ERR == 6) = true ∧
    nextIs (exec (.m2ContainerHeader 16 1 1 [6, 0, 0, 6, 0x71, 0, 0]) (busyAt .header)) (fun t => t.ERR == 1) = true := by
  decide +kernel
/-- V-F30. -/
theorem test_m2ChunkRecord : nextIs (exec (.m2ChunkRecord 1 [] none) (busyAt .m2Chunk)) (fun t => t.ERR == 6) = true := by
  decide +kernel
/-- V-F22, V-F23: the stop at a full output and at a continuation byte 0, and R163's going on. -/
theorem test_stopTest :
    nextIs (step { busyAt .m2CopyOut with OUT := Space.zeros 1, fr := { FramerRegs.zero with US := 1, NB := 2 },
                                          m2d := { State.reset.m2d with OPOS := 1 }, SUB := Space.ofList [1] })
      (fun t => t.STATE == .done && t.SUBPOS == 0) = true ∧
    nextIs (step { busyAt .m2CopyOut with OUT := Space.zeros 3, fr := { FramerRegs.zero with US := 3, NB := 2 },
                                          m2d := { State.reset.m2d with OPOS := 1 }, SUB := Space.ofList [0] })
      (fun t => t.STATE == .done && t.OUT.toList == [0, 0, 0]) = true ∧
    nextIs (step { busyAt .m2CopyOut with OUT := Space.zeros 3, fr := { FramerRegs.zero with US := 3, NB := 2 },
                                          m2d := { State.reset.m2d with OPOS := 1 }, SUB := Space.ofList [5] })
      (fun t => t.phase == .m2Chunk && t.fr.CONT == 5 && t.fr.SEGIDX == 1) = true := by decide +kernel
/-- V-C1, V-C2. -/
theorem test_badCommand :
    nextIs (step { busyAt .dispatch with CMD := .encode, MODE := 4 }) (fun t => t.ERR == 8) = true ∧
    nextIs (step { busyAt .dispatch with CMD := .reserved }) (fun t => t.ERR == 8) = true := by decide +kernel
/-- V-C4, and R31's last column: MODE 3 and OUTLEN 0 after the clear. -/
theorem test_clear : nextIs (step { hostTurn (.writeCmd .idle) .error with ERR := 5, MODE := 2, OUTLEN := 9 })
    (fun t => t.STATE == .idle && t.ERR == 0 && t.OUTLEN == 0 && t.MODE == 3) = true := by decide +kernel
/-- The fetch the host asks for: the bits of the word 0 are the empty literal run 00 00 (V-M2), and the step executes it. -/
theorem test_withFetchWord : nextIs (step (State.reset.withFetchWord 8 0)) (fun t => t.m3d.IP == 2 && t.OUT.len == 0) = true ∧
    decodeTableWord 8 0 = some (.m3Lit 0 []) := by decide +kernel
/-- V-E4, R232: in `aaaa` a repeat of 2 at position 1 leaves the literal. -/
theorem test_bestMatch : bestMatch [0x61, 0x61, 0x61, 0x61] 1 = (2, 1) ∧ bestMatch [0x61, 0x61, 0x61] 1 = (1, 1) := by decide +kernel
/-- R314, V-E6: in `abcabcabcabc` the match at 3 has distance 3 and length 9. -/
theorem test_longestMatch : longestMatch [0x61, 0x62, 0x63, 0x61, 0x62, 0x63, 0x61, 0x62, 0x63, 0x61, 0x62, 0x63] 3 = (9, 3) := by
  decide +kernel
/-- V-E7, V-E7a: `q` and the empty chunk. -/
theorem test_m2Encode : (m2ScanEnd (m2ScanTurn [0x71] (m2ScanStart State.reset.m2e))).z = [0, 6, 0x71, 0] ∧
    (m2ScanEnd (m2ScanStart State.reset.m2e)).z = [0, 3, 0] := by decide +kernel
/-- V-E4: the turn that takes the reference. -/
theorem test_m3Encode :
    (m3ScanTurn [0x61, 0x61, 0x61, 0x61] { m3ScanStart with W := 1 }).z = [0, 1, 0x61, 2, 0, 0x61] := by decide +kernel

/-! ## States and operands that meet the hypotheses of the statements -/

theorem witness_DecodeInvertsEncode : WellFormed (.m3Lit 1 [7]) = true ∧ WellFormed (.m2Lref 31 0xFF) = true ∧
    WellFormed (.m2Aref 3) = true ∧ WellFormed (.m2Rptl 2 15 0xFF 1) = true ∧ WellFormed (.m3BlockRecord 4 0 8 []) = true ∧
    WellFormed (.m2ContainerHeader 8 0 0 []) = true ∧ WellFormed (.m2ChunkRecord 2 [] none) = true := by decide
theorem witness_EncodeInvertsDecode : decode .m2Token [T, F, .byte 5, T] = .ok (.m2Sref 5) [T] := by decide
theorem witness_ControlPairSelectsToken :
    ((inSegment [0, 0]).turns = [] ∧ (inSegment [0, 0]).phase = .m3Token ∧ (inSegment [0, 0]).m3d.IP.toNat + 2 ≤ (inSegment [0, 0]).SEG.len ∧
      (inSegment [0, 0]).SEG.get (inSegment [0, 0]).m3d.IP.toNat = 0) ∧
    ((inSegment [255, 0]).m3d.IP.toNat + 2 ≤ (inSegment [255, 0]).SEG.len ∧
      (inSegment [255, 0]).SEG.get (inSegment [255, 0]).m3d.IP.toNat ≠ 0) := by decide +kernel
theorem witness_LengthCodesAreCanonical : Instr.ctx (.len14to269 0xFF) = .m2Length ∧ codeLength (.len14to269 0xFF) = 269 ∧
    codeLength .len2 = 2 := by decide
theorem witness_StepRunsDecodedInstruction :
    decode .container (streamItems (atStream .header [8, 0, 0, 0, 0, 0, 0, 0, 0, 0, 0, 0])) = .ok (.m2ContainerHeader 8 0 0 []) [] ∧
    decode .m3Record (streamItems (atStream .m3Record [4, 0, 0, 0, 0, 0, 0, 0, 8, 0, 0, 0])) = .ok (.m3BlockRecord 4 0 8 []) [] ∧
    ((inSegment [0, 0]).m3d.IP.toNat < (inSegment [0, 0]).SEG.len ∧ decode .m3Token (segmentItems (inSegment [0, 0])) = .ok (.m3Lit 0 []) []) ∧
    decode .m2Chunk (byteItems ((Space.ofList [2, 0]).slice 0 2)) = .ok (.m2ChunkRecord 2 [] none) [] ∧
    decode .m2Start (byteItems ((inChunk .m2Start [0, 6] 0 0 0 []).CHUNK.slice 0 2)) = .ok (.m2ChunkStart 0 (some 6)) [] ∧
    decode .m2Token (inChunk .m2Token [] 2 0 0 [F, .byte 1]).m2d.tok = .ok (.m2Lit 1) [] ∧
    decode .m2Length (inChunk .m2Length [] 2 0 0 [T]).m2d.tok = .ok .len2 [] ∧
    (decode .m2Token (inChunk .m2Token [0, 0, 1, 2] 2 0 0 []).m2d.tok = .needFlag ∧ (inChunk .m2Token [0, 0, 1, 2] 2 0 0 []).m2d.NBITS = 0 ∧
      decode .m2FlagWord (byteItems ((inChunk .m2Token [0, 0, 1, 2] 2 0 0 []).CHUNK.slice 2 2)) = .ok (.m2FlagWord 0x201) []) ∧
    (decode .m2Length (inChunk .m2Length [0, 0, 1, 2] 2 0 0 [F]).m2d.tok = .needFlag ∧ (inChunk .m2Length [0, 0, 1, 2] 2 0 0 [F]).m2d.NBITS = 0) ∧
    (inSegment [0, 0]).turns = [] := by decide +kernel
theorem witness_ReaderTakesBitsAndBytes :
    (decode .m2Token [] = .needFlag ∧ (inChunk .m2Token [0, 6] 2 1 1 []).m2d.NBITS ≠ 0 ∧ (inChunk .m2Token [0, 6] 2 1 1 []).turns = []) ∧
    (decode .m2Length [F] = .needFlag ∧ (inChunk .m2Length [0, 6, 1, 2] 2 0 0 [F]).m2d.OFF.toNat + 2 ≤ (inChunk .m2Length [0, 6, 1, 2] 2 0 0 [F]).CHUNK.len) ∧
    (inChunk .m2Token [0, 6, 1] 2 0 0 []).CHUNK.len < (inChunk .m2Token [0, 6, 1] 2 0 0 []).m2d.OFF.toNat + 2 ∧
    (decode .m2Token [F] = .needByte ∧ (inChunk .m2Token [0, 6, 1] 2 0 0 [F]).m2d.OFF.toNat < (inChunk .m2Token [0, 6, 1] 2 0 0 [F]).CHUNK.len) ∧
    (inChunk .m2Token [0, 6] 2 0 0 [F]).CHUNK.len ≤ (inChunk .m2Token [0, 6] 2 0 0 [F]).m2d.OFF.toNat := by decide +kernel
theorem witness_FlagBitsLeastSignificantFirst : (15 : Nat) < 16 ∧ ¬ (8 : Nat) < 8 ∧ (7 : Nat) < 8 := by decide
theorem witness_ResetLeavesHostRegisters : (hostTurn .powerOn .busy).turns = [.host .powerOn] := by decide
theorem witness_CommandStartClearsFramer : (hostTurn (.writeCmd .reserved) .error).turns = [.host (.writeCmd .reserved)] ∧
    (hostTurn (.writeCmd .reserved) .error).STATE ≠ .busy ∧ Command.reserved ≠ .idle := by decide
theorem witness_CommandStartClearsFramer_dispatch :
    ((busyAt .dispatch).turns = [] ∧ (busyAt .dispatch).phase = .dispatch) ∧ ({ busyAt .dispatch with CMD := .decode } : State).CMD = .decode ∧
    (({ busyAt .dispatch with CMD := .encode } : State).CMD = .encode ∧ ({ busyAt .dispatch with CMD := .encode } : State).MODE = 3) ∧
    ({ busyAt .dispatch with CMD := .encode, MODE := 2 } : State).MODE = 2 := by decide
theorem witness_BusyIgnoresCommandWrite : (hostTurn (.writeCmd .decode) .busy).turns = [.host (.writeCmd .decode)] ∧
    (hostTurn (.writeCmd .decode) .busy).STATE = .busy := by decide
theorem witness_ClearReturnsToIdle : ((hostTurn (.writeCmd .idle) .done).turns = [.host (.writeCmd .idle)] ∧
    (hostTurn (.writeCmd .idle) .done).STATE = .done) ∧ (State.reset.turns = [] ∧ State.reset.phase = .waiting) := by decide
theorem witness_HostDataWrites :
    ((hostTurn (.writeIn [0, 1]) .done).turns = [.host (.writeIn [0, 1])] ∧ (hostTurn (.writeIn [0, 1]) .done).STATE ≠ .busy) ∧
    (hostTurn (.writeSp 1) .idle).turns = [.host (.writeSp 1)] ∧ (hostTurn (.writeMode 2) .idle).turns = [.host (.writeMode 2)] ∧
    ((hostTurn (.writeMode 2) .busy).STATE = .busy ∧ (∀ c, HostAction.writeMode 2 ≠ .writeCmd c) ∧ HostAction.writeMode 2 ≠ .powerOn) :=
  ⟨by decide, by decide, by decide, by decide, by simp, by decide⟩
theorem witness_BadCommandsEndInError :
    ({ busyAt .dispatch with CMD := .reserved } : State).CMD = .reserved ∧
    (({ busyAt .dispatch with CMD := .encode, MODE := 1 } : State).MODE ≠ 2 ∧ ({ busyAt .dispatch with CMD := .encode, MODE := 1 } : State).MODE ≠ 3) ∧
    (busyAt .dispatch).turns = [] ∧ (busyAt .dispatch).phase = .dispatch := by decide
theorem witness_M3LitCopiesLiterals : (inSegment []).OUT.wf = true ∧ ([] : List Byte).length < (1 : Byte).toNat ∧
    ([7] : List Byte).length = (1 : Byte).toNat ∧ (inSegment []).m3d.BASE + (inSegment []).m3d.OP = (inSegment []).OUT.len := by decide
theorem witness_M3RefRepeatsAndAppends : (midSegment [] [1, 2] 0).OUT.wf = true ∧
    (midSegment [] [1, 2] 0).m3d.OP < (2 : Byte).toNat + 1 ∧ (1 : Byte).toNat + 1 ≤ (midSegment [] [1, 2] 0).m3d.OP ∧
    (midSegment [] [1, 2] 0).m3d.BASE + (midSegment [] [1, 2] 0).m3d.OP = (midSegment [] [1, 2] 0).OUT.len := by decide +kernel
theorem witness_SegmentEndsAtItsLength :
    ((midSegment [0, 0] [] 2).SEG.len ≤ (midSegment [0, 0] [] 2).m3d.IP.toNat ∧
      (midSegment [0, 0] [] 2).fr.NB.toNat ≤ (midSegment [0, 0] [] 2).fr.SEGIDX.toNat + 1 ∧ (midSegment [0, 0] [] 2).OUT.len < 2 ^ 64 ∧
      (midSegment [0, 0] [] 2).turns = [] ∧ (midSegment [0, 0] [] 2).phase = .m3Token) ∧
    (({ FramerRegs.zero with NB := 2 } : FramerRegs).SEGIDX.toNat + 1 < ({ FramerRegs.zero with NB := 2 } : FramerRegs).NB.toNat) ∧
    (midSegment [0, 0] [] 1).m3d.IP.toNat + 1 = (midSegment [0, 0] [] 1).SEG.len ∧
    (midSegment [0, 0] [] 0).m3d.IP.toNat + 2 ≤ (midSegment [0, 0] [] 0).SEG.len := by decide +kernel
theorem witness_M2LitWritesByte :
    ((inChunk .m2Token [0, 6] 2 0 0 [F]).turns = [] ∧ (inChunk .m2Token [0, 6] 2 0 0 [F]).m2d.tok = [F] ∧
      (inChunk .m2Token [0, 6] 2 0 0 [F]).CHUNK.len ≤ (inChunk .m2Token [0, 6] 2 0 0 [F]).m2d.OFF.toNat) ∧
    ((atOpos 65536 0).SCRATCH.wf = true ∧ 65536 ≤ (atOpos 65536 0).m2d.OPOS.toNat) ∧ (atOpos 65535 0).m2d.OPOS.toNat < 65536 := by
  decide +kernel
theorem witness_DistanceTokensSetDistance : (1 : BitVec 5) ≠ 0 ∧ (31 : BitVec 5) ≠ 0 := by decide
theorem witness_RepeatTokensFill : (atOpos 65522 0).SCRATCH.wf = true ∧ (atOpos 65522 0).m2d.OPOS.toNat + ((0 : BitVec 4).toNat + 14) ≤ 65536 ∧
    65536 < (atOpos 65523 0).m2d.OPOS.toNat + ((0 : BitVec 4).toNat + 14) ∧
    (atOpos 61427 0).m2d.OPOS.toNat + ((15 : BitVec 4).toNat * 256 + (255 : Byte).toNat + 14) ≤ 65536 ∧
    65536 < (atOpos 61428 0).m2d.OPOS.toNat + ((15 : BitVec 4).toNat * 256 + (255 : Byte).toNat + 14) := by decide
theorem witness_LengthCodesCopy : Instr.ctx .len2 = .m2Length ∧ (atOpos 5 0).SCRATCH.wf = true ∧ (atOpos 5 0).m2d.DIST = 0 ∧
    (atOpos 5 6).m2d.OPOS.toNat < (atOpos 5 6).m2d.DIST.toNat ∧
    ((atOpos 65535 1).m2d.DIST ≠ 0 ∧ (atOpos 65535 1).m2d.DIST.toNat ≤ (atOpos 65535 1).m2d.OPOS.toNat ∧
      65536 < (atOpos 65535 1).m2d.OPOS.toNat + codeLength .len2) ∧
    ((atOpos 5 5).m2d.DIST ≠ 0 ∧ (atOpos 5 5).m2d.DIST.toNat ≤ (atOpos 5 5).m2d.OPOS.toNat ∧
      (atOpos 5 5).m2d.OPOS.toNat + codeLength .len2 ≤ 65536) ∧
    (atOpos 65534 1).m2d.OPOS.toNat + codeLength .len2 ≤ 65536 := by decide
theorem witness_ChunkStartLoadsReader : (busyAt .m2Start).turns = [] ∧ (busyAt .m2Start).phase = .m2Start ∧
    (busyAt .m2Start).CHUNK.len = 0 ∧ (1 : Byte) ≠ 0 := by decide
theorem witness_ShortHeadersTruncated :
    (atStream .header (List.replicate 11 0)).IN.len < (atStream .header (List.replicate 11 0)).SP.toNat + 12 ∧
    (0x80 ≤ ((atStream .header ([0, 0, 0, 0x80] ++ List.replicate 15 0)).IN.get 3).toNat ∧
      (atStream .header ([0, 0, 0, 0x80] ++ List.replicate 15 0)).IN.len < 0 + 20) ∧
    (atStream .m3Record (List.replicate 11 0)).IN.len < (atStream .m3Record (List.replicate 11 0)).SP.toNat + 12 ∧
    ({ busyAt .m2Chunk with SUB := Space.ofList [2] } : State).SUB.len < 0 + 2 ∧ (busyAt .m2Chunk).turns = [] := by decide +kernel
theorem witness_M3HeaderLoadsFields : (busyAt .header).SP.toNat + 20 < 2 ^ 64 ∧ (busyAt .header).OUT.len < 2 ^ 64 ∧
    (1 : BitVec 32) ≠ 0 ∧ (busyAt .header).OUT = Space.zeros 0 := by decide
theorem witness_M3RecordDemux : (busyAt .m3Record).OUT.wf = true ∧ (busyAt .m3Record).SP.toNat + 12 + ([7] : List Byte).length < 2 ^ 64 ∧
    (3 : BitVec 32).toNat < 4 ∧ (4 ≤ (5 : BitVec 32).toNat ∧ ([] : List Byte).length < (5 : BitVec 32).toNat - 4) ∧
    (4 ≤ (4 : BitVec 32).toNat ∧ ([] : List Byte).length = (4 : BitVec 32).toNat - 4) ∧ (9 : BitVec 32) ≠ 8 := by decide
theorem witness_M2HeaderAllocates : (busyAt .header).SP.toNat + 12 + ([7] : List Byte).length < 2 ^ 64 ∧ (7 : BitVec 32).toNat < 8 ∧
    (8 ≤ (9 : BitVec 32).toNat ∧ ([] : List Byte).length < (9 : BitVec 32).toNat - 8) ∧
    (8 ≤ (8 : BitVec 32).toNat ∧ ([] : List Byte).length = (8 : BitVec 32).toNat - 8) := by decide
theorem witness_M2ChunkRecordLoads : (1 : BitVec 16).toNat < 2 ∧
    (2 ≤ (3 : BitVec 16).toNat ∧ ([] : List Byte).length < (3 : BitVec 16).toNat - 2) ∧
    (2 ≤ (2 : BitVec 16).toNat ∧ ([] : List Byte).length = (2 : BitVec 16).toNat - 2) := by decide

/-- One encoded segment of three bytes, or one encoded chunk of one. -/
def encoded (p : Phase) (buf z : List Byte) (bt : BitVec 32) : State :=
  { atStream p buf with recs := [{ ulen := buf.length, bt := bt, z := z }] }

/-- A mode-2 container of `us` bytes at its copy-out: one byte produced, `coff` written, the sub-stream `sub` left, `nb` chunks. -/
def atCopyOut (us coff nb : BitVec 32) (sub : List Byte) : State :=
  { busyAt .m2CopyOut with
    OUT := Space.zeros us.toNat, SUB := Space.ofList sub, fr := { FramerRegs.zero with US := us, COFF := coff, NB := nb },
    m2d := { State.reset.m2d with OPOS := 1 } }

theorem witness_CopyOutAndStop : (atCopyOut 3 2 2 []).turns = [] ∧ (atCopyOut 3 2 2 []).phase = .m2CopyOut ∧
    (atCopyOut 3 2 2 []).OUT.wf = true ∧ ScratchInv (atCopyOut 3 2 2 []) ∧
    (atCopyOut 3 3 2 []).fr.US.toNat < (atCopyOut 3 3 2 []).fr.COFF.toNat + (atCopyOut 3 3 2 []).m2d.OPOS.toNat ∧
    (atCopyOut 3 2 2 []).fr.US.toNat = (atCopyOut 3 2 2 []).fr.COFF.toNat + (atCopyOut 3 2 2 []).m2d.OPOS.toNat ∧
    ((atCopyOut 3 1 2 []).fr.COFF.toNat + (atCopyOut 3 1 2 []).m2d.OPOS.toNat < (atCopyOut 3 1 2 []).fr.US.toNat ∧
      (atCopyOut 3 1 2 []).SUB.len ≤ (atCopyOut 3 1 2 []).SUBPOS) ∧
    ((atCopyOut 3 1 2 [0]).SUBPOS < (atCopyOut 3 1 2 [0]).SUB.len ∧ (atCopyOut 3 1 2 [0]).SUB.get (atCopyOut 3 1 2 [0]).SUBPOS = 0) ∧
    ((atCopyOut 3 1 2 [1]).SUBPOS < (atCopyOut 3 1 2 [1]).SUB.len ∧ (atCopyOut 3 1 2 [1]).SUB.get (atCopyOut 3 1 2 [1]).SUBPOS ≠ 0 ∧
      (atCopyOut 3 1 2 [1]).fr.SEGIDX.toNat + 1 < (atCopyOut 3 1 2 [1]).fr.NB.toNat ∧
      (atCopyOut 3 1 1 [1]).fr.NB.toNat ≤ (atCopyOut 3 1 1 [1]).fr.SEGIDX.toNat + 1) := by decide +kernel
theorem witness_HeaderFieldsUnchecked : isNext (exec (.m3ContainerHeader 0x80000000 1 0 0 0) (busyAt .header)) = true ∧
    (Instr.ctx (.m3Lit 1 [5]) = .m3Token ∧ isNext (exec (.m3Lit 1 [5]) (inSegment [])) = true) ∧
    isNext (exec (.m3BlockRecord 5 9 0 [7]) (busyAt .m3Record)) = true := by decide +kernel
theorem witness_HeaderFieldsUnchecked_token : Instr.ctx (.m3Ref 1 0 (some 5)) = .m3Token ∧
    isNext (exec (.m3Ref 1 0 (some 5)) (midSegment [] [7] 0)) = true := by decide +kernel
theorem witness_InstructionsKeepHostState_step : (atCopyOut 3 1 2 [1]).turns = [] ∧ isNext (step (atCopyOut 3 1 2 [1])) = true ∧
    (encoded .m3Write [1, 2, 3] [0, 3, 1, 2, 3] 8).turns = [] ∧ isNext (step (encoded .m3Write [1, 2, 3] [0, 3, 1, 2, 3] 8)) = true := by
  decide +kernel
theorem witness_InstructionsKeepHostState_turn :
    ({ inSegment [0, 1, 7] with turns := [.engine, .host .powerOn] } : State).turns = .engine :: [.host .powerOn] ∧
    isNext (step { inSegment [0, 1, 7] with turns := [] }) = true := by decide +kernel
/-- An M3_REF whose output would begin behind the end of OUT: a state no run reaches. -/
theorem witness_InstructionsKeepHostState_fault : (match step { inSegment [1, 0, 7] with m3d := { IP := 0, OP := 1, A := 0, B := 0, BASE := 0 } } with
    | .fault f => f == .outsideSpace
    | .next _ => false
    | .refused _ => false) = true := by decide +kernel
theorem witness_InstructionsKeepHostState : isNext (exec (.m2Lit 1) (produced [])) = true ∧ isNext (exec (.m3Lit 1 [5]) (inSegment [])) = true := by
  decide +kernel
theorem witness_UnitsAreIndependent :
    (Instr.ctx (.m3Lit 1 [5]) = .m3Token ∧ nextIs (exec (.m3Lit 1 [5]) (inSegment [])) (fun t => t.STATE != .error) = true) ∧
    (Instr.ctx (.m2Lit 1) = .m2Token ∧ nextIs (exec (.m2Lit 1) (produced [])) (fun t => t.STATE != .error) = true) := by decide +kernel
theorem witness_TokensSetNoFlags : isNext (exec .len2 (atOpos 1 1)) = true ∧ Instr.ctx .len2 ≠ .m2Start ∧ Instr.ctx .len2 ≠ .m2FlagWord := by
  decide +kernel
theorem witness_ScratchNeverOverrun : isNext (exec (.m2Lit 1) (atOpos 65535 0)) = true ∧ (atOpos 65535 0).SCRATCH.len = 65536 ∧
    (65534 : Nat) < (atOpos 65535 0).m2d.OPOS.toNat ∧ nextIs (exec (.m2Lit 1) (atOpos 5 0)) (fun t => t.m2d.OPOS.toNat ≤ 6) = true := by
  decide +kernel
theorem witness_Mode3TokensWriteAtCursor : Instr.ctx (.m3Ref 2 0 (some 5)) = .m3Token ∧
    nextIs (exec (.m3Ref 2 0 (some 5)) (midSegment [] [7] 0)) (fun t => t.STATE != .error) = true := by decide +kernel

/-- A segment whose output begins behind one byte of an earlier segment. -/
def behind (b : Byte) : State :=
  { inSegment [] with OUT := Space.ofList [b, 9], m3d := { IP := 0, OP := 1, A := 0, B := 0, BASE := 1 } }

theorem witness_NoCrossSegmentReference : Instr.ctx (.m3Ref 2 0 (some 5)) = .m3Token ∧ (behind 1).m3d = (behind 2).m3d ∧
    (behind 1).OUT.len = (behind 2).OUT.len ∧ (behind 1).OUT.wf = true ∧ (behind 2).OUT.wf = true ∧
    (behind 1).OUT.cells = [(0, 1), (1, 9)] ∧ (behind 2).OUT.cells = [(0, 2), (1, 9)] ∧
    nextIs (exec (.m3Ref 2 0 (some 5)) (behind 1)) (fun t => t.STATE != .error) = true ∧
    nextIs (exec (.m3Ref 2 0 (some 5)) (behind 2)) (fun t => t.STATE != .error) = true := by decide +kernel
/-- The two states of the witness above read the same from the base on. -/
theorem witness_NoCrossSegmentReference_reads : ∀ x, (behind 1).m3d.BASE ≤ x → (behind 1).OUT.get x = (behind 2).OUT.get x := by
  intro x hx
  have h : 1 ≤ x := hx
  have h1 : (behind 1).OUT.cells = [(0, 1), (1, 9)] := by decide +kernel
  have h2 : (behind 2).OUT.cells = [(0, 2), (1, 9)] := by decide +kernel
  simp only [Space.get, h1, h2, cellsGet]
  simp [Nat.ne_of_lt h]

/-- A chunk in which the flag of its literal is next, inside a container. -/
def chunkBegun : State :=
  { inChunk .m2Token [0, 6, 0x71, 0] 2 6 8 [] with OUT := Space.zeros 1, fr := { FramerRegs.zero with US := 1, NB := 1 } }

theorem witness_MemoryStaysCanonical : MemoryInv (inSegment [0, 1, 7]) ∧ isNext (step (inSegment [0, 1, 7])) = true := by decide +kernel
theorem witness_StatusStaysConsistent : StatusInv (inSegment [0, 1, 7]) ∧ isNext (step (inSegment [0, 1, 7])) = true := by decide +kernel
theorem witness_InvariantKept : Inv (inSegment [0, 1, 7]) ∧ isNext (step (inSegment [0, 1, 7])) = true := by decide +kernel
theorem witness_NoFaultUnderInvariant : Inv (midSegment [0, 1, 7, 1, 0, 5] [7] 3) := by decide +kernel
theorem witness_ChunkDecodingEnds : Inv chunkBegun ∧ chunkBegun.turns = [] ∧ inM2Token chunkBegun.phase ∧ isNext (step chunkBegun) = true := by
  decide +kernel
theorem witness_SegmentOutputBounded : Inv (inSegment [0, 1, 7]) ∧ (inSegment [0, 1, 7]).turns = [] ∧ (inSegment [0, 1, 7]).phase = .m3Token ∧
    (inSegment [0, 1, 7]).m3d.OP ≤ 86 * (inSegment [0, 1, 7]).m3d.IP.toNat ∧
    nextIs (step (inSegment [0, 1, 7])) (fun t => t.phase == .m3Token) = true := by decide +kernel
theorem witness_StreamPositionAdvances : (busyAt .header).STATE ≠ .error ∧
    (atStream .header [8, 0, 0, 0, 0, 0, 0, 0, 0, 0, 0, 0]).IN.len < 2 ^ 64 ∧
    (atStream .header [8, 0, 0, 0, 0, 0, 0, 0, 0, 0, 0, 0]).SP.toNat ≤ (atStream .header [8, 0, 0, 0, 0, 0, 0, 0, 0, 0, 0, 0]).IN.len ∧
    nextIs (step (atStream .header [8, 0, 0, 0, 0, 0, 0, 0, 0, 0, 0, 0])) (fun t => t.STATE != .error) = true := by decide +kernel
theorem witness_RunLengthIsLongest : 1 < ([7, 7] : List Byte).length ∧ 1 + 1 ≤ ([7, 7] : List Byte).length ∧
    ∀ j, j < 1 → ([7, 7] : List Byte).getD (1 + j) 0 = ([7, 7] : List Byte).getD 1 0 := by decide
theorem witness_LongestMatchIsNearest : 2 ≤ ([7, 7, 7, 7] : List Byte).length ∧ 1 ≤ min 2 0x1FFF ∧
    (2 ≤ 267 ∧ 2 + 2 ≤ ([7, 7, 7, 7] : List Byte).length ∧
      ∀ j, j < 2 → ([7, 7, 7, 7] : List Byte).getD (2 + j) 0 = ([7, 7, 7, 7] : List Byte).getD (2 + j - 1) 0) := by decide
theorem witness_HashChainFindsLongestMatch : ({ State.reset.m2e with NEXT := [(0, 7), (3, 1)] } : M2EncRegs).HEAD = [] ∧
    ({ State.reset.m2e with NEXT := [(0, 7), (3, 1)] } : M2EncRegs).NEXT.Pairwise (fun a b => a.1 < b.1) ∧
    2 ≤ ([7, 7, 7, 7] : List Byte).length := by decide
/-- The scan of the first segment or chunk of `buf`, in mode 3 at `w`. -/
def scanning (p : Phase) (buf : List Byte) (w : Nat) : State := { atStream p buf with m3e := { m3ScanStart with W := w } }
theorem witness_HashChainFindsLongestMatch_turn :
    (m2ScanStart State.reset.m2e).HEAD = (hashInsertAll [7, 7] (m2ScanStart State.reset.m2e).POS 0 State.reset.m2e).HEAD ∧
    (m2ScanStart State.reset.m2e).NEXT = (hashInsertAll [7, 7] (m2ScanStart State.reset.m2e).POS 0 State.reset.m2e).NEXT := by decide
theorem witness_TokenChoiceRule_step : (scanning .m2Scan [7] 0).turns = [] ∧ (scanning .m2Scan [7] 0).phase = .m2Scan ∧
    (scanning .m2Scan [7] 0).m2e.POS < (m2Chunk (scanning .m2Scan [7] 0)).length := by decide +kernel
theorem witness_TokenChoiceRule : (14 ≤ 29 ∧ 28 < 29 ∧ 29 - 14 < 16) ∧ (14 ≤ 30 ∧ 29 < 30 ∧ 16 ≤ 30 - 14) ∧
    ((14 < 14 ∨ 14 ≤ 14) ∧ 2 ≤ 14 ∧ 255 ≤ 255) ∧ ((13 < 14 ∨ 13 ≤ 2) ∧ 2 ≤ 2 ∧ 255 < 256) ∧ ((13 < 14 ∨ 13 ≤ 1) ∧ 1 < 2) := by decide
/-- V-E8: `z` 16 times is one short repeat. -/
theorem witness_TokenChoiceRule_scan : chooseToken (List.replicate 16 0x7A) (m2ScanStart State.reset.m2e).POS
    (runLength (List.replicate 16 0x7A) (m2ScanStart State.reset.m2e).POS)
    (longestMatch (List.replicate 16 0x7A) (m2ScanStart State.reset.m2e).POS).1
    (longestMatch (List.replicate 16 0x7A) (m2ScanStart State.reset.m2e).POS).2
    = ([T, T, F, F, F, F, F, .byte 1, F, F, F, T, F, .byte 0x7A], 16) := by decide +kernel
theorem witness_BitWriterMirrorsReader :
    (putItems [F, .byte 1, T, T, F, F, F, F, F, .byte 0] (m2ScanStart State.reset.m2e)).z.length < 2 ^ 16 - 2 := by decide +kernel
theorem witness_BestMatchIsLongestRepeat : 1 < ([7, 7, 7] : List Byte).length ∧ 1 ≤ min 1 255 ∧
    (1 * 1 ≤ 255 ∧ 1 + 1 * 1 + 1 ≤ ([7, 7, 7] : List Byte).length ∧
      ∀ j, j < 1 * 1 → ([7, 7, 7] : List Byte).getD (1 + j) 0 = ([7, 7, 7] : List Byte).getD (1 - 1 + j % 1) 0) := by decide
theorem witness_ScanStaysInBounds :
    (({ m3ScanStart with W := 254 } : M3EncRegs).W < (List.replicate 255 (7 : Byte)).length ∧
      ({ m3ScanStart with W := 254 } : M3EncRegs).LIT ≤ ({ m3ScanStart with W := 254 } : M3EncRegs).W ∧
      ({ m3ScanStart with W := 254 } : M3EncRegs).W - ({ m3ScanStart with W := 254 } : M3EncRegs).LIT < 255 ∧
      ({ m3ScanStart with W := 254 } : M3EncRegs).z.length ≤ 3 * ({ m3ScanStart with W := 254 } : M3EncRegs).LIT) ∧
    (({ m3ScanStart with W := 1 } : M3EncRegs).W = ([7] : List Byte).length ∧
      ({ m3ScanStart with W := 1 } : M3EncRegs).LIT ≤ ({ m3ScanStart with W := 1 } : M3EncRegs).W) ∧
    (m2ScanStart State.reset.m2e).POS < ([7] : List Byte).length := by decide +kernel
theorem witness_ReferencePayloadDecodes : 3 ≤ ([1, 2, 3] : List Byte).length ∧ ([1, 2, 3] : List Byte).length ≤ 0x40000 ∧
    (List.replicate 0x40000 (7 : Byte)).length ≤ 0x40000 ∧ (List.replicate 0x7FF0 (7 : Byte)).length ≤ 0x7FF0 :=
  ⟨by decide, by decide, by rw [List.length_replicate], by rw [List.length_replicate]⟩
theorem witness_ShortSegmentsStored : (atStream .m3Split [1, 2]).turns = [] ∧ (atStream .m3Split [1, 2]).phase = .m3Split ∧
    (atStream .m3Split [1, 2]).recs.length < m3SegmentCount (atStream .m3Split [1, 2]).IN.len ∧
    (m3Segment (atStream .m3Split [1, 2])).length ≤ 2 ∧
    (2 < (m3Segment (atStream .m3Split [1, 2, 3])).length ∧ (atStream .m3Split [1, 2, 3]).policy = .reference ∧
      (atStream .m3Split [1, 2, 3]).recs.length < m3SegmentCount (atStream .m3Split [1, 2, 3]).IN.len) ∧
    ({ atStream .m3Split [1, 2, 3] with policy := .anyConforming } : State).policy = .anyConforming := by decide +kernel
theorem witness_ShortSegmentsStored_turn : bestMatch [7, 7, 7, 7] 1 = (2, 1) ∧ bestMatch [1, 2, 3] 1 = (0, 0) ∧
    (({ m3ScanStart with W := 254 } : M3EncRegs).W + 1 - ({ m3ScanStart with W := 254 } : M3EncRegs).LIT = 255 ∧
      bestMatch (List.replicate 254 7 ++ [8]) 254 = (0, 0)) := by decide +kernel
theorem witness_ShortSegmentsStored_scan : (scanning .m3Scan [1, 2, 3] 2).turns = [] ∧ (scanning .m3Scan [1, 2, 3] 2).phase = .m3Scan ∧
    (scanning .m3Scan [1, 2, 3] 2).m3e.W < (m3Segment (scanning .m3Scan [1, 2, 3] 2)).length ∧
    (m3Segment (scanning .m3Scan [1, 2, 3] 3)).length ≤ (scanning .m3Scan [1, 2, 3] 3).m3e.W := by decide +kernel
theorem witness_EmptyInputContainers : (busyAt .m3Split).turns = [] ∧ (busyAt .m3Split).phase = .m3Split ∧ (busyAt .m3Split).recs = [] ∧
    (busyAt .m3Split).IN.len = 0 ∧ (busyAt .m2Split).phase = .m2Split ∧ (busyAt .m2Split).IN.len = 0 := by decide
/-- A buffer of 2^32 zero bytes, with as many records as `n`. -/
def oversized (p : Phase) (n : Nat) : State :=
  { busyAt p with IN := Space.zeros (2 ^ 32), recs := List.replicate n { ulen := 0, bt := 8, z := [] } }
theorem witness_OversizedBufferRejected : 2 ^ 32 ≤ (oversized .m3Split 16384).IN.len ∧ (oversized .m3Split 16384).turns = [] ∧
    m3SegmentCount (oversized .m3Split 16384).IN.len ≤ (oversized .m3Split 16384).recs.length ∧
    m2ChunkCount (oversized .m2Split 131137).IN.len ≤ (oversized .m2Split 131137).recs.length := by
  refine ⟨by decide, rfl, ?_, ?_⟩ <;> simp only [oversized, List.length_replicate] <;> decide

/-- One record whose payload is as long as `n`. -/
def longPayload (p : Phase) (n : Nat) : State :=
  { busyAt p with IN := Space.zeros 1, recs := [{ ulen := 1, bt := 8, z := List.replicate n 0 }] }
theorem witness_OversizedBufferRejected_fields :
    (∃ r ∈ (longPayload .m3Split (2 ^ 32 - 4)).recs, 2 ^ 32 ≤ r.z.length + 4) ∧
    (∃ r ∈ (longPayload .m3Split (2 ^ 32 - 12)).recs, 2 ^ 32 ≤ r.z.length + 12) ∧
    2 ^ 32 ≤ ((longPayload .m3Split (2 ^ 32 - 12)).recs.map fun r => r.z.length + 12).sum ∧
    m3SegmentCount (longPayload .m3Split (2 ^ 32 - 12)).IN.len ≤ (longPayload .m3Split (2 ^ 32 - 12)).recs.length ∧
    2 ^ 31 ≤ 8 + ((longPayload .m2Split (2 ^ 31 - 11)).recs.map fun r => r.z.length + 3).sum ∧
    m2ChunkCount (longPayload .m2Split (2 ^ 31 - 11)).IN.len ≤ (longPayload .m2Split (2 ^ 31 - 11)).recs.length ∧
    2 ^ 32 ≤ (oversized .m3Split (2 ^ 32)).recs.length := by
  refine ⟨⟨_, List.mem_singleton.mpr rfl, ?_⟩, ⟨_, List.mem_singleton.mpr rfl, ?_⟩, ?_, ?_, ?_, ?_, ?_⟩ <;>
    simp only [longPayload, oversized, List.length_replicate, List.length_singleton, List.map_cons, List.map_nil, List.sum_cons,
      List.sum_nil] <;> decide

theorem witness_M3HeaderWritten : (encoded .m3Split [1, 2, 3] [0, 3, 1, 2, 3] 8).turns = [] ∧
    (encoded .m3Split [1, 2, 3] [0, 3, 1, 2, 3] 8).recs.length = m3SegmentCount (encoded .m3Split [1, 2, 3] [0, 3, 1, 2, 3] 8).IN.len ∧
    (encoded .m3Split [1, 2, 3] [0, 3, 1, 2, 3] 8).IN.len < 2 ^ 32 ∧
    ((encoded .m3Split [1, 2, 3] [0, 3, 1, 2, 3] 8).recs.map fun r => r.z.length + 12).sum < 2 ^ 32 := by decide +kernel
theorem witness_M3RecordsWritten : (encoded .m3Write [1, 2, 3] [0, 3, 1, 2, 3] 8).OUT.wf = true ∧
    (encoded .m3Write [1, 2, 3] [0, 3, 1, 2, 3] 8).turns = [] ∧ (encoded .m3Write [1, 2, 3] [0, 3, 1, 2, 3] 8).phase = .m3Write ∧
    (encoded .m3Write [1, 2, 3] [0, 3, 1, 2, 3] 8).recs[(encoded .m3Write [1, 2, 3] [0, 3, 1, 2, 3] 8).fr.SEGIDX.toNat]?
      = some { ulen := 3, bt := 8, z := [0, 3, 1, 2, 3] } ∧
    (encoded .m3Write [1, 2, 3] [0, 3, 1, 2, 3] 8).fr.SEGIDX.toNat + 1 = (encoded .m3Write [1, 2, 3] [0, 3, 1, 2, 3] 8).recs.length ∧
    ([0, 3, 1, 2, 3] : List Byte).length + 4 < 2 ^ 32 := by decide +kernel
/-- Two encoded segments, the first of them to be written. -/
def twoSegments : State :=
  { busyAt .m3Write with recs := [{ ulen := 3, bt := 8, z := [0, 3, 1, 2, 3] }, { ulen := 1, bt := 0, z := [7] }] }
theorem witness_M3RecordsWritten_next : twoSegments.turns = [] ∧ twoSegments.phase = .m3Write ∧ twoSegments.OUT.wf = true ∧
    twoSegments.recs[twoSegments.fr.SEGIDX.toNat]? = some { ulen := 3, bt := 8, z := [0, 3, 1, 2, 3] } ∧
    twoSegments.fr.SEGIDX.toNat + 1 < twoSegments.recs.length ∧ twoSegments.recs.length < 2 ^ 32 := by decide +kernel
/-- The end of the scan of a one-byte chunk, with a payload of `n` bytes so far. -/
def scanned (n : Nat) : State :=
  { atStream .m2Scan [7] with m2e := { State.reset.m2e with POS := 1, GPOS := 1, GCAP := 8, GN := 1, z := List.replicate n 0 } }
theorem witness_M2ChunkKept : (scanned 3).turns = [] ∧ (scanned 3).phase = .m2Scan ∧ (m2Chunk (scanned 3)).length ≤ (scanned 3).m2e.POS ∧
    (putItems (encode .m2End) (scanned 3).m2e).z.length + 2 ≤ 0xFFFF := by decide +kernel
/-- Writing M2_END does not shorten a payload, so one that is already too long stays so. -/
theorem scanned_end_length (n : Nat) : n ≤ (putItems (encode .m2End) (scanned n).m2e).z.length := by
  simp [scanned, putItems, putItem, putFlag, putByte, encode, farFlags, flagBits]
theorem witness_M2ChunkKept_long : 0xFFFF < (putItems (encode .m2End) (scanned 0xFFFE).m2e).z.length + 2 :=
  Nat.lt_of_lt_of_le (by decide) (Nat.add_le_add_right (scanned_end_length 0xFFFE) 2)
theorem witness_M2ChunkKept_split : (atStream .m2Split [7]).turns = [] ∧ (atStream .m2Split [7]).phase = .m2Split ∧
    (atStream .m2Split [7]).recs.length < m2ChunkCount (atStream .m2Split [7]).IN.len := by decide +kernel
/-- Two encoded chunks. -/
def encodedTwo : State :=
  { busyAt .m2Split with
    IN := Space.zeros 0x7FF1, recs := [{ ulen := 0x7FF0, bt := 0, z := [] }, { ulen := 1, bt := 0, z := [] }] }
theorem witness_M2ContainerWritten :
    ((encoded .m2Split [7] [0, 6, 7, 0] 0).turns = [] ∧ (encoded .m2Split [7] [0, 6, 7, 0] 0).phase = .m2Split ∧
      m2ChunkCount (encoded .m2Split [7] [0, 6, 7, 0] 0).IN.len ≤ (encoded .m2Split [7] [0, 6, 7, 0] 0).recs.length ∧
      (encoded .m2Split [7] [0, 6, 7, 0] 0).IN.len < 2 ^ 32 ∧
      (encoded .m2Split [7] [0, 6, 7, 0] 0).recs.length < 2 ^ 32 ∧
      (∀ r ∈ (encoded .m2Split [7] [0, 6, 7, 0] 0).recs, r.z.length + 2 ≤ 0xFFFF) ∧
      8 + ((encoded .m2Split [7] [0, 6, 7, 0] 0).recs.map fun r => r.z.length + 3).sum < 2 ^ 31) ∧
    ((∀ r ∈ encodedTwo.recs, r.z.length + 2 ≤ 0xFFFF) ∧ 8 + (encodedTwo.recs.map fun r => r.z.length + 3).sum < 2 ^ 31 ∧
      m2ChunkCount encodedTwo.IN.len ≤ encodedTwo.recs.length ∧ encodedTwo.turns = [] ∧ encodedTwo.phase = .m2Split) := by decide +kernel

end Sys2Proof.Tests
end

section
/-! The family 00_scope: what an instruction and a step of the engine leave alone, and that the engine does not see the schedule. -/

namespace Sys2Proof.Scope

open Sys2Proof.Machine

/-- A step's outcome. -/
abbrev Outcome := Host.Outcome State Fault Refusal

/-- `o` is a next state of which `P` holds, or a fault; it is no refusal. -/
def Yields (P : State → Prop) : Outcome → Prop
  | .next t => P t
  | .fault _ => True
  | .refused _ => False

theorem Yields.of_next {P : State → Prop} {o : Outcome} {t : State} (h : Yields P o) (ho : o = .next t) : P t := by
  subst ho; exact h

theorem Yields.ne_refused {P : State → Prop} {o : Outcome} (h : Yields P o) (f : Refusal) : o ≠ .refused f := by
  rintro rfl; exact h

theorem Yields.imp {P Q : State → Prop} {o : Outcome} (h : Yields P o) (hPQ : ∀ t, P t → Q t) : Yields Q o := by
  cases o with
  | next t => exact hPQ t h
  | fault f => trivial
  | refused f => exact h

/-! ## What an instruction can do, unit by unit (00_scope R2) -/

/-- `t` is `u`, or `u` with an error raised. -/
def EndsAs (u t : State) : Prop := t = u ∨ ∃ e, t = raise e u

/-- What a mode-3 token can make of `s`: OUT and the mode-3 decoder's registers written, with or without an error. -/
def M3Outcome (s t : State) : Prop := ∃ out regs, EndsAs { s with OUT := out, m3d := regs } t

/-- What a mode-2 instruction of a chunk can make of `s`: SCRATCH and the mode-2 decoder's registers written, a free value drawn, the
engine moved on, with or without an error. -/
def M2Outcome (s t : State) : Prop :=
  ∃ scratch regs p n, EndsAs { s with SCRATCH := scratch, m2d := regs, phase := p, fresh := n } t

/-- The places of a chunk. -/
abbrev InChunk (c : Ctx) : Prop := c = .m2Start ∨ c = .m2Token ∨ c = .m2Length ∨ c = .m2FlagWord

theorem m3Outcome_raise (e : ErrorKind) (s : State) (out : Space) (regs : M3DecRegs) :
    M3Outcome s (raise e { s with OUT := out, m3d := regs }) := ⟨out, regs, .inr ⟨e, rfl⟩⟩

theorem m2Outcome_update (s : State) (regs : M2DecRegs) (p : Phase) (n : Nat) :
    M2Outcome s { s with m2d := regs, phase := p, fresh := n } := ⟨s.SCRATCH, regs, p, n, .inl rfl⟩

theorem m2Outcome_raise (e : ErrorKind) (s : State) (regs : M2DecRegs) : M2Outcome s (raise e { s with m2d := regs }) :=
  ⟨s.SCRATCH, regs, s.phase, s.fresh, .inr ⟨e, rfl⟩⟩

theorem m2Outcome_fillScratch (c : Byte) (k : Nat) (s : State) (regs : M2DecRegs) :
    M2Outcome s (fillScratch c k { s with m2d := regs }) := by
  obtain ⟨-, h⟩ | ⟨-, h⟩ := fillScratch_cases c k { s with m2d := regs }
  · exact h ▸ m2Outcome_raise .overflow s regs
  · exact ⟨_, _, _, _, .inl h⟩

theorem m2Outcome_setupRun (len : Nat) (s : State) : M2Outcome s (setupRun len s) := by
  obtain ⟨-, h⟩ | ⟨-, -, -, h⟩ | ⟨-, -, -, h⟩ := setupRun_cases len s
  · exact h ▸ m2Outcome_raise .badDistance s _
  · exact h ▸ m2Outcome_raise .overflow s _
  · exact ⟨_, _, _, s.fresh, .inl h⟩

theorem execM3Lit_yields (n : Byte) (data : List Byte) (s : State) : Yields (M3Outcome s) (execM3Lit n data s) := by
  unfold execM3Lit
  split
  · exact m3Outcome_raise .truncatedInput s s.OUT _
  · exact ⟨_, _, .inl rfl⟩

theorem execM3Ref_yields (a b : Byte) (c : Option Byte) (s : State) : Yields (M3Outcome s) (execM3Ref a b c s) := by
  unfold execM3Ref
  split_ifs
  · exact m3Outcome_raise .badDistance s s.OUT _
  · trivial
  · cases c with
    | none => exact m3Outcome_raise .truncatedInput s _ _
    | some v => exact ⟨_, _, .inl rfl⟩

theorem execM2ChunkStart_yields (method : Byte) (g : Option Byte) (s : State) :
    Yields (M2Outcome s) (execM2ChunkStart method g s) := by
  unfold execM2ChunkStart
  split
  · exact m2Outcome_raise .unsupportedMethod s s.m2d
  · cases g with
    | none => exact m2Outcome_raise .outOfData s s.m2d
    | some v => exact m2Outcome_update s _ _ _

/-- A mode-3 token writes OUT and its own registers, and may then raise an error. -/
theorem exec_m3Token_yields {i : Instr} (hc : i.ctx = .m3Token) (s : State) : Yields (M3Outcome s) (exec i s) := by
  cases i with
  | m3Lit n data => exact execM3Lit_yields n data s
  | m3Ref a b c => exact execM3Ref_yields a b c s
  | _ => cases hc

/-- A mode-2 instruction of a chunk writes SCRATCH and its own registers, and may then raise an error. -/
theorem exec_inChunk_yields {i : Instr} (hc : InChunk i.ctx) (s : State) : Yields (M2Outcome s) (exec i s) := by
  cases i with
  | m2ChunkStart method g => exact execM2ChunkStart_yields method g s
  | m2FlagWord w => exact m2Outcome_update s _ _ _
  | m2End => exact m2Outcome_update s _ _ _
  | m2Sref d => exact m2Outcome_update s _ _ _
  | m2Lref h lo => exact m2Outcome_update s _ _ _
  | m2Aref lo => exact m2Outcome_update s _ _ _
  | m2Lit c => exact m2Outcome_fillScratch c 1 s s.m2d
  | m2Rpts lo v c => exact m2Outcome_fillScratch c (shortCount v) s _
  | m2Rptl lo v x c => exact m2Outcome_fillScratch c (longCount v x) s _
  | len2 => exact m2Outcome_setupRun 2 s
  | len3 => exact m2Outcome_setupRun 3 s
  | len4 => exact m2Outcome_setupRun 4 s
  | len5 => exact m2Outcome_setupRun 5 s
  | len6to13 x => exact m2Outcome_setupRun (midLength x) s
  | len14to269 x => exact m2Outcome_setupRun (byteLength x) s
  | _ => simp [InChunk, Instr.ctx] at hc

/-- Settles O33: each unit's instructions write that unit's part of the state; an error adds what `raise` writes. -/
theorem unitsAreIndependent : Obligations.UnitsAreIndependent := by
  intro i s t h
  constructor
  · intro hc
    obtain ⟨out, regs, rfl | ⟨e, rfl⟩⟩ := (exec_m3Token_yields hc s).of_next h
    · simp
    · simp
  · intro hc
    obtain ⟨scratch, regs, p, n, rfl | ⟨e, rfl⟩⟩ := (exec_inChunk_yields hc s).of_next h
    · simp
    · simp

/-! ## What no instruction writes (10_state R31, R41, 20_memory R70) -/

/-- What the host alone writes, and the policy. -/
def hostSide (s : State) : Space × Command × BitVec 8 × EncoderPolicy := (s.IN, s.CMD, s.MODE, s.policy)

/-- The encoders' registers and results, and the schedule. -/
def encoderSide (s : State) : M3EncRegs × M2EncRegs × List Rec × List Turn := (s.m3e, s.m2e, s.recs, s.turns)

/-- `t` agrees with `s` on everything no instruction writes. -/
def OutsideKept (s t : State) : Prop := hostSide t = hostSide s ∧ encoderSide t = encoderSide s

theorem hostSide_eq_iff {s t : State} :
    hostSide t = hostSide s ↔ t.IN = s.IN ∧ t.CMD = s.CMD ∧ t.MODE = s.MODE ∧ t.policy = s.policy := by
  simp [hostSide]

theorem encoderSide_eq_iff {s t : State} :
    encoderSide t = encoderSide s ↔ t.m3e = s.m3e ∧ t.m2e = s.m2e ∧ t.recs = s.recs ∧ t.turns = s.turns := by
  simp [encoderSide]

theorem hostSide_finish (s : State) : hostSide (finish s) = hostSide s := by simp [hostSide]

theorem OutsideKept.finish {s u : State} (h : OutsideKept s u) : OutsideKept s (finish u) := by
  simpa [OutsideKept, hostSide, encoderSide] using h

theorem outsideKept_advanceSp (n : Nat) (s : State) : OutsideKept s (advanceSp n s) := by
  simp [OutsideKept, hostSide, encoderSide]

theorem OutsideKept.nextRecord {s u : State} (h : OutsideKept s u) : OutsideKept s (nextRecord u) := by
  obtain ⟨-, hn⟩ | ⟨-, hn⟩ := nextRecord_cases u
  · exact hn ▸ h
  · exact hn ▸ h.finish

theorem M3Outcome.outsideKept {s t : State} (h : M3Outcome s t) : OutsideKept s t := by
  obtain ⟨out, regs, rfl | ⟨e, rfl⟩⟩ := h
  · exact ⟨rfl, rfl⟩
  · exact ⟨rfl, rfl⟩

theorem M2Outcome.outsideKept {s t : State} (h : M2Outcome s t) : OutsideKept s t := by
  obtain ⟨scratch, regs, p, n, rfl | ⟨e, rfl⟩⟩ := h
  · exact ⟨rfl, rfl⟩
  · exact ⟨rfl, rfl⟩

theorem execM3ContainerHeader_outsideKept (flag nb cs maxrec us : BitVec 32) (s : State) :
    Yields (OutsideKept s) (execM3ContainerHeader flag nb cs maxrec us s) := by
  unfold execM3ContainerHeader
  split
  · exact OutsideKept.finish (outsideKept_advanceSp 20 _)
  · exact outsideKept_advanceSp 20 _

theorem execM3BlockRecord_outsideKept (bs ubs bt : BitVec 32) (payload : List Byte) (s : State) :
    Yields (OutsideKept s) (execM3BlockRecord bs ubs bt payload s) := by
  have hSp := outsideKept_advanceSp (12 + payload.length)
    { s with fr := { s.fr with BS := bs, UBS := ubs, BT := bt }, SEG := Space.ofList payload }
  unfold execM3BlockRecord
  split_ifs
  · exact hSp
  · exact hSp
  · exact hSp
  · exact OutsideKept.nextRecord hSp

theorem execM2ContainerHeader_outsideKept (cs us nb : BitVec 32) (sub : List Byte) (s : State) :
    Yields (OutsideKept s) (execM2ContainerHeader cs us nb sub s) := by
  have hSp := outsideKept_advanceSp (12 + sub.length) { s with fr := { s.fr with FLAG := cs, CS := cs, US := us, NB := nb } }
  unfold execM2ContainerHeader
  split_ifs
  · exact hSp
  · exact hSp
  · exact OutsideKept.finish hSp
  · exact hSp

theorem execM2ChunkRecord_outsideKept (bs : BitVec 16) (chunk : List Byte) (cont : Option Byte) (s : State) :
    Yields (OutsideKept s) (execM2ChunkRecord bs chunk cont s) := by
  unfold execM2ChunkRecord
  split_ifs
  · exact ⟨rfl, rfl⟩
  · exact ⟨rfl, rfl⟩
  · exact ⟨rfl, rfl⟩

/-- No instruction writes what is outside the decoder, and none is refused. -/
theorem exec_outsideKept (i : Instr) (s : State) : Yields (OutsideKept s) (exec i s) := by
  cases i with
  | m3ContainerHeader flag nb cs maxrec us => exact execM3ContainerHeader_outsideKept flag nb cs maxrec us s
  | m3BlockRecord bs ubs bt payload => exact execM3BlockRecord_outsideKept bs ubs bt payload s
  | m2ContainerHeader cs us nb sub => exact execM2ContainerHeader_outsideKept cs us nb sub s
  | m2ChunkRecord bs chunk cont => exact execM2ChunkRecord_outsideKept bs chunk cont s
  | m3Lit n data => exact (exec_m3Token_yields rfl s).imp fun _ => M3Outcome.outsideKept
  | m3Ref a b c => exact (exec_m3Token_yields rfl s).imp fun _ => M3Outcome.outsideKept
  | _ => exact (exec_inChunk_yields (by simp [InChunk, Instr.ctx]) s).imp fun _ => M2Outcome.outsideKept

/-! ## What no step of the engine writes -/

/-- `t` agrees with `s` on what the host alone writes and on the policy. -/
abbrev HostKept (s t : State) : Prop := hostSide t = hostSide s

theorem exec_hostKept (i : Instr) (s : State) : Yields (HostKept s) (exec i s) :=
  (exec_outsideKept i s).imp fun _ h => h.1

theorem runFetched_hostKept (e : ErrorKind) (tk : Take Instr) (s : State) : Yields (HostKept s) (runFetched e tk s) := by
  cases tk with
  | ok i r => exact exec_hostKept i s
  | needByte => exact (rfl : HostKept s (raise e s))
  | needFlag => trivial
  | wrongKind => trivial

theorem m3TokenStep_hostKept (s : State) : Yields (HostKept s) (m3TokenStep s) := by
  unfold m3TokenStep
  split
  · exact (OutsideKept.nextRecord ⟨rfl, rfl⟩ : OutsideKept s (nextRecord s)).1
  · exact runFetched_hostKept _ _ s

theorem readFlag_hostKept (s : State) : Yields (HostKept s) (readFlag s) := by
  unfold readFlag
  split
  · exact runFetched_hostKept _ _ s
  · exact (rfl : HostKept s { s with m2d := takeFlagBit s.m2d })

theorem readByte_hostKept (s : State) : Yields (HostKept s) (readByte s) := by
  unfold readByte
  split
  · exact (rfl : HostKept s (raise .outOfData s))
  · exact (rfl : hostSide s = hostSide s)

theorem m2ReadStep_hostKept (c : Ctx) (s : State) : Yields (HostKept s) (m2ReadStep c s) := by
  unfold m2ReadStep
  split
  · exact exec_hostKept _ { s with m2d := { s.m2d with tok := [] } }
  · exact readFlag_hostKept s
  · exact readByte_hostKept s
  · trivial

theorem dispatchCommand_hostKept (s : State) : HostKept s (dispatchCommand s) := by
  unfold dispatchCommand
  split
  · rfl
  · rfl
  · split_ifs
    · rfl
    · rfl
    · rfl
  · rfl

theorem stopTest_hostKept (s : State) : HostKept s (stopTest s) := by
  unfold stopTest
  split
  · exact hostSide_finish s
  split
  · exact hostSide_finish s
  split_ifs
  · exact hostSide_finish _
  · rfl
  · exact hostSide_finish _

theorem copyOut_hostKept (s : State) : HostKept s (copyOut s) := by
  unfold copyOut
  split
  · rfl
  · exact stopTest_hostKept _

theorem m3WriteHeader_hostKept (s : State) : HostKept s (m3WriteHeader s) := by
  dsimp only [m3WriteHeader]
  split
  · rfl
  · rfl

theorem m3SplitStep_hostKept (s : State) : HostKept s (m3SplitStep s) := by
  dsimp only [m3SplitStep]
  split
  · split
    · rfl
    split
    · rfl
    split
    · rfl
    · rfl
  · exact m3WriteHeader_hostKept s

theorem m3ScanStep_hostKept (s : State) : HostKept s (m3ScanStep s) := by
  dsimp only [m3ScanStep]
  split
  · rfl
  · rfl

theorem m3WriteStep_hostKept (s : State) : HostKept s (m3WriteStep s) := by
  unfold m3WriteStep
  split
  · exact hostSide_finish s
  split
  · rfl
  · exact hostSide_finish _

theorem m2KeepChunk_hostKept (S z : List Byte) (s : State) : HostKept s (m2KeepChunk S z s) := by
  unfold m2KeepChunk
  split
  · rfl
  · rfl

theorem m2WriteContainer_hostKept (s : State) : HostKept s (m2WriteContainer s) := by
  dsimp only [m2WriteContainer]
  split
  · rfl
  · exact hostSide_finish _

theorem m2SplitStep_hostKept (s : State) : HostKept s (m2SplitStep s) := by
  dsimp only [m2SplitStep]
  split
  · split
    · rfl
    split
    · rfl
    split
    · exact (m2KeepChunk_hostKept _ _ _).trans rfl
    · rfl
  · exact m2WriteContainer_hostKept s

theorem m2ScanStep_hostKept (s : State) : HostKept s (m2ScanStep s) := by
  dsimp only [m2ScanStep]
  split
  · rfl
  · exact (m2KeepChunk_hostKept _ _ _).trans rfl

/-- No step of the engine writes what the host alone writes, or the policy, and none is refused. -/
theorem engineStep_hostKept (s : State) : Yields (HostKept s) (engineStep s) := by
  unfold engineStep
  cases s.phase with
  | waiting => exact (rfl : HostKept s s)
  | dispatch => exact dispatchCommand_hostKept s
  | header => exact runFetched_hostKept _ _ s
  | m3Record => exact runFetched_hostKept _ _ s
  | m3Token => exact m3TokenStep_hostKept s
  | m2Chunk => exact runFetched_hostKept _ _ s
  | m2Start => exact runFetched_hostKept _ _ s
  | m2Token => exact m2ReadStep_hostKept .m2Token s
  | m2Length => exact m2ReadStep_hostKept .m2Length s
  | m2CopyOut => exact copyOut_hostKept s
  | m3Split => exact m3SplitStep_hostKept s
  | m3Scan => exact m3ScanStep_hostKept s
  | m3Write => exact m3WriteStep_hostKept s
  | m2Split => exact m2SplitStep_hostKept s
  | m2Scan => exact m2ScanStep_hostKept s

/-! ## The engine does not see the schedule (log 1)

Each rule moves a change of the schedule from after an operation to before it, so that what is left is the same operation on equal states. -/

/-- `s` with the turns to come made `r`. -/
def withTurns (r : List Turn) (s : State) : State := { s with turns := r }

/-- `f` of the next state, if the outcome has one. -/
def onNext (f : State → State) : Outcome → Outcome
  | .next t => .next (f t)
  | .fault e => .fault e
  | .refused e => .refused e

@[simp] theorem onNext_next (f : State → State) (t : State) : onNext f (.next t) = .next (f t) := rfl

section
variable (r : List Turn) (s : State)

@[simp] theorem withTurns_CMD : (withTurns r s).CMD = s.CMD := rfl
@[simp] theorem withTurns_SUB : (withTurns r s).SUB = s.SUB := rfl
@[simp] theorem withTurns_CHUNK : (withTurns r s).CHUNK = s.CHUNK := rfl
@[simp] theorem withTurns_fr : (withTurns r s).fr = s.fr := rfl
@[simp] theorem withTurns_m2d : (withTurns r s).m2d = s.m2d := rfl
@[simp] theorem withTurns_recs : (withTurns r s).recs = s.recs := rfl
@[simp] theorem withTurns_phase : (withTurns r s).phase = s.phase := rfl
@[simp] theorem withTurns_policy : (withTurns r s).policy = s.policy := rfl
@[simp] theorem withTurns_SUBPOS : (withTurns r s).SUBPOS = s.SUBPOS := rfl

theorem withTurns_raise (e : ErrorKind) : withTurns r (raise e s) = raise e (withTurns r s) := rfl

theorem withTurns_startSegment : withTurns r (startSegment s) = startSegment (withTurns r s) := rfl

theorem withTurns_advanceSp (n : Nat) : withTurns r (advanceSp n s) = advanceSp n (withTurns r s) :=
  apply_ite (withTurns r) _ _ _

theorem withTurns_setOutlen : withTurns r (setOutlen s) = setOutlen (withTurns r s) := apply_ite (withTurns r) _ _ _

theorem withTurns_finish : withTurns r (finish s) = finish (withTurns r s) := by
  unfold finish
  rw [← withTurns_setOutlen]
  rfl

theorem withTurns_nextRecord : withTurns r (nextRecord s) = nextRecord (withTurns r s) := by
  unfold nextRecord
  rw [apply_ite (withTurns r), withTurns_finish]
  rfl

theorem withTurns_fillScratch (c : Byte) (k : Nat) : withTurns r (fillScratch c k s) = fillScratch c k (withTurns r s) :=
  apply_ite (withTurns r) _ _ _

theorem withTurns_setupRun (len : Nat) : withTurns r (setupRun len s) = setupRun len (withTurns r s) := by
  simp only [setupRun, apply_ite (withTurns r)]
  rfl

theorem execM3Lit_withTurns (n : Byte) (data : List Byte) :
    onNext (withTurns r) (execM3Lit n data s) = execM3Lit n data (withTurns r s) := apply_ite (onNext (withTurns r)) _ _ _

theorem execM3Ref_withTurns (a b : Byte) (c : Option Byte) :
    onNext (withTurns r) (execM3Ref a b c s) = execM3Ref a b c (withTurns r s) := by
  cases c with
  | none =>
    simp only [execM3Ref, apply_ite (onNext (withTurns r))]
    rfl
  | some v =>
    simp only [execM3Ref, apply_ite (onNext (withTurns r))]
    rfl

theorem execM2ChunkStart_withTurns (method : Byte) (g : Option Byte) :
    onNext (withTurns r) (execM2ChunkStart method g s) = execM2ChunkStart method g (withTurns r s) := by
  cases g with
  | none => exact apply_ite (onNext (withTurns r)) _ _ _
  | some v => exact apply_ite (onNext (withTurns r)) _ _ _

theorem execM3ContainerHeader_withTurns (flag nb cs maxrec us : BitVec 32) :
    onNext (withTurns r) (execM3ContainerHeader flag nb cs maxrec us s)
      = execM3ContainerHeader flag nb cs maxrec us (withTurns r s) := by
  simp only [execM3ContainerHeader, apply_ite (onNext (withTurns r)), onNext_next, withTurns_finish, withTurns_advanceSp]
  rfl

/-! The two records below go on from the state `u` that `advanceSp` gives; the rule for `advanceSp` is applied once, and `u` is then any
state. -/

theorem execM3BlockRecord_withTurns (bs ubs bt : BitVec 32) (payload : List Byte) :
    onNext (withTurns r) (execM3BlockRecord bs ubs bt payload s) = execM3BlockRecord bs ubs bt payload (withTurns r s) := by
  unfold execM3BlockRecord
  extract_lets fr u fr' u'
  have hSp : withTurns r u = u' := withTurns_advanceSp r _ _
  clear_value u u'
  subst hSp
  simp only [apply_ite (onNext (withTurns r)), onNext_next, withTurns_nextRecord]
  rfl

theorem execM2ContainerHeader_withTurns (cs us nb : BitVec 32) (sub : List Byte) :
    onNext (withTurns r) (execM2ContainerHeader cs us nb sub s) = execM2ContainerHeader cs us nb sub (withTurns r s) := by
  unfold execM2ContainerHeader
  extract_lets fr u frLoaded loaded fr' u' frLoaded' loaded'
  have hSp : withTurns r u = u' := withTurns_advanceSp r _ _
  clear_value u u'
  subst hSp
  simp only [apply_ite (onNext (withTurns r)), onNext_next, withTurns_finish]
  rfl

theorem execM2ChunkRecord_withTurns (bs : BitVec 16) (chunk : List Byte) (cont : Option Byte) :
    onNext (withTurns r) (execM2ChunkRecord bs chunk cont s) = execM2ChunkRecord bs chunk cont (withTurns r s) := by
  simp only [execM2ChunkRecord, apply_ite (onNext (withTurns r))]
  rfl

theorem exec_withTurns (i : Instr) : onNext (withTurns r) (exec i s) = exec i (withTurns r s) := by
  cases i with
  | m3Lit n data => exact execM3Lit_withTurns r s n data
  | m3Ref a b c => exact execM3Ref_withTurns r s a b c
  | m2ChunkStart method g => exact execM2ChunkStart_withTurns r s method g
  | m2FlagWord w => rfl
  | m2End => rfl
  | m2Sref d => rfl
  | m2Lref h lo => rfl
  | m2Aref lo => rfl
  | m2Lit c => exact congrArg Host.Outcome.next (withTurns_fillScratch r s c 1)
  | m2Rpts lo v c => exact congrArg Host.Outcome.next (withTurns_fillScratch r _ c (shortCount v))
  | m2Rptl lo v x c => exact congrArg Host.Outcome.next (withTurns_fillScratch r _ c (longCount v x))
  | len2 => exact congrArg Host.Outcome.next (withTurns_setupRun r s 2)
  | len3 => exact congrArg Host.Outcome.next (withTurns_setupRun r s 3)
  | len4 => exact congrArg Host.Outcome.next (withTurns_setupRun r s 4)
  | len5 => exact congrArg Host.Outcome.next (withTurns_setupRun r s 5)
  | len6to13 x => exact congrArg Host.Outcome.next (withTurns_setupRun r s (midLength x))
  | len14to269 x => exact congrArg Host.Outcome.next (withTurns_setupRun r s (byteLength x))
  | m3ContainerHeader flag nb cs maxrec us => exact execM3ContainerHeader_withTurns r s flag nb cs maxrec us
  | m3BlockRecord bs ubs bt payload => exact execM3BlockRecord_withTurns r s bs ubs bt payload
  | m2ContainerHeader cs us nb sub => exact execM2ContainerHeader_withTurns r s cs us nb sub
  | m2ChunkRecord bs chunk cont => exact execM2ChunkRecord_withTurns r s bs chunk cont

theorem runFetched_withTurns (e : ErrorKind) (tk : Take Instr) :
    onNext (withTurns r) (runFetched e tk s) = runFetched e tk (withTurns r s) := by
  cases tk with
  | ok i rest => exact exec_withTurns r s i
  | needByte => rfl
  | needFlag => rfl
  | wrongKind => rfl

theorem m3TokenStep_withTurns : onNext (withTurns r) (m3TokenStep s) = m3TokenStep (withTurns r s) := by
  unfold m3TokenStep
  rw [apply_ite (onNext (withTurns r)), runFetched_withTurns, onNext_next, withTurns_nextRecord]
  rfl

theorem readFlag_withTurns : onNext (withTurns r) (readFlag s) = readFlag (withTurns r s) := by
  unfold readFlag
  rw [apply_ite (onNext (withTurns r)), runFetched_withTurns]
  rfl

theorem readByte_withTurns : onNext (withTurns r) (readByte s) = readByte (withTurns r s) := by
  cases h : s.CHUNK.slice s.m2d.OFF.toNat 1 with
  | nil =>
    simp only [readByte, withTurns_CHUNK, withTurns_m2d, h]
    rfl
  | cons v vs =>
    simp only [readByte, withTurns_CHUNK, withTurns_m2d, h]
    rfl

theorem m2ReadStep_withTurns (c : Ctx) : onNext (withTurns r) (m2ReadStep c s) = m2ReadStep c (withTurns r s) := by
  unfold m2ReadStep
  rw [withTurns_m2d]
  cases decode c s.m2d.tok with
  | ok i rest => exact exec_withTurns r { s with m2d := { s.m2d with tok := [] } } i
  | needFlag => exact readFlag_withTurns r s
  | needByte => exact readByte_withTurns r s
  | wrongKind => rfl

theorem withTurns_dispatchCommand : withTurns r (dispatchCommand s) = dispatchCommand (withTurns r s) := by
  unfold dispatchCommand
  rw [withTurns_CMD]
  cases s.CMD with
  | idle => rfl
  | decode => rfl
  | encode =>
    simp only [apply_ite (withTurns r)]
    rfl
  | reserved => rfl

theorem withTurns_stopTest : withTurns r (stopTest s) = stopTest (withTurns r s) := by
  unfold stopTest
  rw [apply_ite (withTurns r), withTurns_finish, withTurns_SUB, withTurns_SUBPOS]
  cases s.SUB.slice s.SUBPOS 1 with
  | nil =>
    simp only [withTurns_finish]
    rfl
  | cons v vs =>
    simp only [apply_ite (withTurns r), withTurns_finish]
    rfl

theorem withTurns_copyOut : withTurns r (copyOut s) = copyOut (withTurns r s) := by
  unfold copyOut
  rw [apply_ite (withTurns r), withTurns_stopTest]
  rfl

theorem withTurns_m3WriteHeader : withTurns r (m3WriteHeader s) = m3WriteHeader (withTurns r s) := by
  simp only [m3WriteHeader, apply_ite (withTurns r)]
  rfl

theorem withTurns_m3SplitStep : withTurns r (m3SplitStep s) = m3SplitStep (withTurns r s) := by
  cases h : s.policy with
  | reference =>
    simp only [m3SplitStep, withTurns_policy, h, apply_ite (withTurns r), withTurns_m3WriteHeader]
    rfl
  | anyConforming =>
    simp only [m3SplitStep, withTurns_policy, h, apply_ite (withTurns r), withTurns_m3WriteHeader]
    rfl

theorem withTurns_m3ScanStep : withTurns r (m3ScanStep s) = m3ScanStep (withTurns r s) := by
  simp only [m3ScanStep, apply_ite (withTurns r)]
  rfl

theorem withTurns_m3WriteStep : withTurns r (m3WriteStep s) = m3WriteStep (withTurns r s) := by
  unfold m3WriteStep
  rw [withTurns_recs, withTurns_fr]
  cases s.recs[s.fr.SEGIDX.toNat]? with
  | none => exact withTurns_finish r s
  | some x =>
    simp only [apply_ite (withTurns r), withTurns_finish]
    simp only [withTurns]

theorem withTurns_m2KeepChunk (S z : List Byte) : withTurns r (m2KeepChunk S z s) = m2KeepChunk S z (withTurns r s) :=
  apply_ite (withTurns r) _ _ _

theorem withTurns_m2WriteContainer : withTurns r (m2WriteContainer s) = m2WriteContainer (withTurns r s) := by
  simp only [m2WriteContainer, apply_ite (withTurns r), withTurns_finish, withTurns_raise]
  simp only [withTurns]
  rfl

theorem withTurns_m2SplitStep : withTurns r (m2SplitStep s) = m2SplitStep (withTurns r s) := by
  cases h : s.policy with
  | reference =>
    simp only [m2SplitStep, withTurns_policy, h, apply_ite (withTurns r), withTurns_m2WriteContainer]
    rfl
  | anyConforming =>
    simp only [m2SplitStep, withTurns_policy, h, apply_ite (withTurns r), withTurns_m2WriteContainer, withTurns_m2KeepChunk]
    rfl

theorem withTurns_m2ScanStep : withTurns r (m2ScanStep s) = m2ScanStep (withTurns r s) := by
  simp only [m2ScanStep, apply_ite (withTurns r), withTurns_m2KeepChunk]
  rfl

/-- Changing the schedule before a step of the engine or after it is the same. -/
theorem engineStep_withTurns : onNext (withTurns r) (engineStep s) = engineStep (withTurns r s) := by
  unfold engineStep
  rw [withTurns_phase]
  cases s.phase with
  | waiting => rfl
  | dispatch => exact congrArg Host.Outcome.next (withTurns_dispatchCommand r s)
  | header => exact runFetched_withTurns r s _ _
  | m3Record => exact runFetched_withTurns r s _ _
  | m3Token => exact m3TokenStep_withTurns r s
  | m2Chunk => exact runFetched_withTurns r s _ _
  | m2Start => exact runFetched_withTurns r s _ _
  | m2Token => exact m2ReadStep_withTurns r s .m2Token
  | m2Length => exact m2ReadStep_withTurns r s .m2Length
  | m2CopyOut => exact congrArg Host.Outcome.next (withTurns_copyOut r s)
  | m3Split => exact congrArg Host.Outcome.next (withTurns_m3SplitStep r s)
  | m3Scan => exact congrArg Host.Outcome.next (withTurns_m3ScanStep r s)
  | m3Write => exact congrArg Host.Outcome.next (withTurns_m3WriteStep r s)
  | m2Split => exact congrArg Host.Outcome.next (withTurns_m2SplitStep r s)
  | m2Scan => exact congrArg Host.Outcome.next (withTurns_m2ScanStep r s)

end

theorem step_of_no_turns {s : State} (h : s.turns = []) : step s = engineStep s := by
  unfold step; rw [h]

/-- An engine turn of a schedule is the engine's step with no schedule, the rest of the schedule kept. -/
theorem step_of_engine_turn {s : State} {r : List Turn} (h : s.turns = .engine :: r) :
    step s = onNext (withTurns r) (step { s with turns := [] }) := by
  calc step s = engineStep (withTurns r { s with turns := [] }) := by unfold step; rw [h]; rfl
    _ = onNext (withTurns r) (engineStep { s with turns := [] }) := (engineStep_withTurns r _).symm
    _ = onNext (withTurns r) (step { s with turns := [] }) := by rw [step_of_no_turns rfl]

/-- Settles O32: the frame of every instruction, the frame of every step of the engine, and the schedule passing through unseen. -/
theorem instructionsKeepHostState : Obligations.InstructionsKeepHostState := by
  refine ⟨fun i s t h => ?_, fun s t hs h => ?_, fun s r hr => ⟨fun t h => ?_, fun f h => ?_, fun f => ?_⟩⟩
  · obtain ⟨hHost, hEnc⟩ := (exec_outsideKept i s).of_next h
    obtain ⟨hIn, hCmd, hMode, hPolicy⟩ := hostSide_eq_iff.mp hHost
    obtain ⟨hM3e, hM2e, hRecs, hTurns⟩ := encoderSide_eq_iff.mp hEnc
    exact ⟨hIn, hCmd, hMode, hM3e, hM2e, hRecs, hTurns, hPolicy⟩
  · rw [step_of_no_turns hs] at h
    exact hostSide_eq_iff.mp ((engineStep_hostKept s).of_next h)
  · rw [step_of_engine_turn hr, h]
    rfl
  · rw [step_of_engine_turn hr, h]
    rfl
  · rw [step_of_no_turns rfl]
    exact (engineStep_hostKept _).ne_refused f

end Sys2Proof.Scope
end

section
/-! What reading is known to give: the token decoders read on demand, and a decoded instruction belongs to the place it was read at and is no
longer than its bytes. -/

namespace Sys2Proof.Reading

open Sys2Proof.Machine Sys2Proof.Safety

/-! ## Token readers read on demand (30_encoding R106)

A reader that asks for a flag bit accepts either flag bit next, one that asks for a byte accepts every byte, and it never asks for more than
the token has. -/

/-- The answer of a reader to the first items of a token: it asks for more, or it is done with nothing left over. -/
def Begins {α : Type} : Take α → Prop
  | .ok _ r => r = []
  | .needFlag => True
  | .needByte => True
  | .wrongKind => False

/-- `f` reads item by item, and only what it asks for. -/
structure OnDemand {α : Type} (f : List Item → Take α) : Prop where
  nil : Begins (f [])
  append : ∀ {xs : List Item} (ys : List Item) {a : α} {r : List Item}, f xs = .ok a r → f (xs ++ ys) = .ok a (r ++ ys)
  flag : ∀ {xs : List Item} (b : Bool), f xs = .needFlag → Begins (f (xs ++ [.flag b]))
  byte : ∀ {xs : List Item} (v : Byte), f xs = .needByte → Begins (f (xs ++ [.byte v]))

theorem onDemand_ok {α : Type} (a : α) : OnDemand (Take.ok a) where
  nil := rfl
  append ys _ _ h := by cases h; rfl
  flag _ h := by cases h
  byte _ h := by cases h

theorem onDemand_takeFlag : OnDemand takeFlag where
  nil := trivial
  append {xs} ys a r h := by
    cases xs with
    | nil => cases h
    | cons x xs => cases x <;> cases h; rfl
  flag {xs} b h := by
    cases xs with
    | nil => rfl
    | cons x xs => cases x <;> cases h
  byte {xs} v h := by
    cases xs with
    | nil => cases h
    | cons x xs => cases x <;> cases h

theorem onDemand_takeByte : OnDemand takeByte where
  nil := trivial
  append {xs} ys a r h := by
    cases xs with
    | nil => cases h
    | cons x xs => cases x <;> cases h; rfl
  flag {xs} b h := by
    cases xs with
    | nil => cases h
    | cons x xs => cases x <;> cases h
  byte {xs} v h := by
    cases xs with
    | nil => rfl
    | cons x xs => cases x <;> cases h

/-- After a reading that is done or asks for more, reading on begins as well. -/
theorem Begins.bind {α β : Type} {t : Take α} {g : α → List Item → Take β} (ht : Begins t) (hg : ∀ a, Begins (g a [])) :
    Begins (t.bind g) := by
  cases t with
  | ok a r => cases ht; exact hg a
  | needFlag => trivial
  | needByte => trivial
  | wrongKind => exact ht

theorem OnDemand.bind {α β : Type} {f : List Item → Take α} {g : α → List Item → Take β} (hf : OnDemand f)
    (hg : ∀ a, OnDemand (g a)) : OnDemand fun xs => (f xs).bind g where
  nil := hf.nil.bind fun a => (hg a).nil
  append {xs} ys b r h := by
    obtain ⟨a, r', hxs, hr'⟩ := bind_eq_ok.mp h
    exact bind_eq_ok.mpr ⟨a, r' ++ ys, hf.append ys hxs, (hg a).append ys hr'⟩
  flag {xs} b h := by
    cases hxs : f xs with
    | ok a r => rw [hxs] at h; rw [hf.append _ hxs]; exact (hg a).flag b h
    | needFlag => exact (hf.flag b hxs).bind fun a => (hg a).nil
    | needByte => rw [hxs] at h; cases h
    | wrongKind => rw [hxs] at h; cases h
  byte {xs} v h := by
    cases hxs : f xs with
    | ok a r => rw [hxs] at h; rw [hf.append _ hxs]; exact (hg a).byte v h
    | needFlag => rw [hxs] at h; cases h
    | needByte => exact (hf.byte v hxs).bind fun a => (hg a).nil
    | wrongKind => rw [hxs] at h; cases h

theorem OnDemand.ite {α : Type} {f g : List Item → Take α} (p : Prop) [Decidable p] (hf : OnDemand f) (hg : OnDemand g) :
    OnDemand fun xs => if p then f xs else g xs := by
  by_cases h : p
  · simpa [h] using hf
  · simpa [h] using hg

theorem onDemand_takeBits (k v : Nat) : OnDemand (takeBits k v) := by
  induction k generalizing v with
  | zero => exact onDemand_ok v
  | succ k ih => exact onDemand_takeFlag.bind fun b => ih (2 * v + b.toNat)

theorem onDemand_decodeRepeat (lo : Byte) : OnDemand (decodeRepeat lo) :=
  onDemand_takeFlag.bind fun br => (onDemand_takeBits 4 0).bind fun _ =>
    .ite (br = true) (onDemand_takeByte.bind fun _ => onDemand_takeByte.bind fun _ => onDemand_ok _)
      (onDemand_takeByte.bind fun _ => onDemand_ok _)

theorem onDemand_decodeM2Token : OnDemand decodeM2Token :=
  onDemand_takeFlag.bind fun f1 =>
    .ite (f1 = false) (onDemand_takeByte.bind fun _ => onDemand_ok _) <|
  onDemand_takeFlag.bind fun f2 =>
    .ite (f2 = false) (onDemand_takeByte.bind fun _ => onDemand_ok _) <|
  (onDemand_takeBits 5 0).bind fun h => onDemand_takeByte.bind fun lo =>
    .ite (h ≠ 0) (onDemand_ok _) <| .ite (2 < lo.toNat) (onDemand_ok _) <| .ite (lo = 0) (onDemand_ok _) (onDemand_decodeRepeat lo)

theorem onDemand_decodeM2Length : OnDemand decodeM2Length :=
  onDemand_takeFlag.bind fun f1 => .ite (f1 = true) (onDemand_ok _) <|
  onDemand_takeFlag.bind fun f2 => .ite (f2 = true) (onDemand_ok _) <|
  onDemand_takeFlag.bind fun f3 => .ite (f3 = true) (onDemand_ok _) <|
  onDemand_takeFlag.bind fun f4 => .ite (f4 = true) (onDemand_ok _) <|
  onDemand_takeFlag.bind fun f5 => .ite (f5 = true) ((onDemand_takeBits 3 0).bind fun _ => onDemand_ok _)
    (onDemand_takeByte.bind fun _ => onDemand_ok _)

theorem beginsToken_of_begins {c : Ctx} {tok : List Item} (h : Begins (decode c tok)) : beginsToken c tok = true := by
  unfold beginsToken
  cases hd : decode c tok with
  | ok i r => rw [hd] at h; cases h; rfl
  | needFlag => rfl
  | needByte => rfl
  | wrongKind => rw [hd] at h; exact h.elim

/-! ## What a decoded instruction is known to be -/

/-- Every instruction a reader can answer satisfies `P`. -/
def Answers (P : Instr → Prop) (t : Take Instr) : Prop := ∀ i r, t = .ok i r → P i

theorem answers_ok {P : Instr → Prop} {i : Instr} {r : List Item} (h : P i) : Answers P (.ok i r) := by
  intro j r' hj; cases hj; exact h

theorem answers_bind {P : Instr → Prop} {α : Type} (t : Take α) {f : α → List Item → Take Instr} (h : ∀ a r, Answers P (f a r)) :
    Answers P (t.bind f) := by
  intro i r hi
  obtain ⟨a, r', -, ha⟩ := bind_eq_ok.mp hi
  exact h a r' i r ha

theorem answers_ite {P : Instr → Prop} {p : Prop} [Decidable p] {t u : Take Instr} (ht : Answers P t) (hu : Answers P u) :
    Answers P (if p then t else u) := by
  split
  · exact ht
  · exact hu

theorem takeUpTo_length (n : Nat) (xs : List Item) : (takeUpTo n xs).1.length ≤ n := by
  induction n generalizing xs with
  | zero => simp [takeUpTo]
  | succ n ih =>
    match xs with
    | [] => simp [takeUpTo]
    | .flag b :: r => simp [takeUpTo]
    | .byte v :: r => simpa [takeUpTo] using ih r

/-- A record holds at most the bytes its length field announces (40_framer R154, R160). -/
def PayloadBounded : Instr → Prop
  | .m3BlockRecord bs _ _ payload => payload.length ≤ bs.toNat - 4
  | .m2ChunkRecord bs chunk _ => chunk.length ≤ bs.toNat - 2
  | _ => True

/-- The instruction belongs to the place `c`, and a record's payload is as long as announced at most. -/
def ReadAt (c : Ctx) (i : Instr) : Prop := i.ctx = c ∧ PayloadBounded i

theorem decodeRepeat_readAt (lo : Byte) (xs : List Item) : Answers (ReadAt .m2Token) (decodeRepeat lo xs) :=
  answers_bind _ fun _ _ => answers_bind _ fun _ _ => answers_ite
    (answers_bind _ fun _ _ => answers_bind _ fun _ _ => answers_ok ⟨rfl, trivial⟩)
    (answers_bind _ fun _ _ => answers_ok ⟨rfl, trivial⟩)

theorem decodeM2Token_readAt (xs : List Item) : Answers (ReadAt .m2Token) (decodeM2Token xs) :=
  answers_bind _ fun _ _ => answers_ite (answers_bind _ fun _ _ => answers_ok ⟨rfl, trivial⟩) <|
  answers_bind _ fun _ _ => answers_ite (answers_bind _ fun _ _ => answers_ok ⟨rfl, trivial⟩) <|
  answers_bind _ fun _ _ => answers_bind _ fun _ _ =>
    answers_ite (answers_ok ⟨rfl, trivial⟩) <| answers_ite (answers_ok ⟨rfl, trivial⟩) <|
    answers_ite (answers_ok ⟨rfl, trivial⟩) (decodeRepeat_readAt _ _)

theorem decodeM2Length_readAt (xs : List Item) : Answers (ReadAt .m2Length) (decodeM2Length xs) :=
  answers_bind _ fun _ _ => answers_ite (answers_ok ⟨rfl, trivial⟩) <|
  answers_bind _ fun _ _ => answers_ite (answers_ok ⟨rfl, trivial⟩) <|
  answers_bind _ fun _ _ => answers_ite (answers_ok ⟨rfl, trivial⟩) <|
  answers_bind _ fun _ _ => answers_ite (answers_ok ⟨rfl, trivial⟩) <|
  answers_bind _ fun _ _ => answers_ite (answers_bind _ fun _ _ => answers_ok ⟨rfl, trivial⟩)
    (answers_bind _ fun _ _ => answers_ok ⟨rfl, trivial⟩)

theorem decodeContainer_readAt (xs : List Item) : Answers (ReadAt .container) (decodeContainer xs) :=
  answers_bind _ fun _ _ => answers_ite
    (answers_bind _ fun _ _ => answers_bind _ fun _ _ => answers_bind _ fun _ _ => answers_bind _ fun _ _ => answers_ok ⟨rfl, trivial⟩)
    (answers_bind _ fun _ _ => answers_bind _ fun _ _ => answers_ok ⟨rfl, trivial⟩)

/-- The decoder answers with an instruction of the place it was asked at. -/
theorem decode_readAt (c : Ctx) (xs : List Item) : Answers (ReadAt c) (decode c xs) := by
  cases c with
  | container => exact decodeContainer_readAt xs
  | m3Record =>
    exact answers_bind _ fun _ _ => answers_bind _ fun _ _ => answers_bind _ fun _ _ => answers_ok ⟨rfl, takeUpTo_length _ _⟩
  | m3Token =>
    exact answers_bind _ fun _ _ => answers_bind _ fun _ _ => answers_ite (answers_ok ⟨rfl, trivial⟩) (answers_ok ⟨rfl, trivial⟩)
  | m2Chunk => exact answers_bind _ fun _ _ => answers_ok ⟨rfl, takeUpTo_length _ _⟩
  | m2Start => exact answers_bind _ fun _ _ => answers_ok ⟨rfl, trivial⟩
  | m2Token => exact decodeM2Token_readAt xs
  | m2Length => exact decodeM2Length_readAt xs
  | m2FlagWord => exact answers_bind _ fun _ _ => answers_ok ⟨rfl, trivial⟩

theorem byteItems_cons (b : Byte) (bs : List Byte) : byteItems (b :: bs) = .byte b :: byteItems bs := rfl

theorem takeMaybe_byteItems (bs : List Byte) : takeMaybe (byteItems bs) = (bs.head?, byteItems bs.tail) := by
  cases bs with
  | nil => rfl
  | cons b r => rfl

/-- A mode-3 token is no longer than the bytes it is read from. -/
theorem decode_m3Token_length {bs : List Byte} {i : Instr} {r : List Item} (h : decode .m3Token (byteItems bs) = .ok i r) :
    (encode i).length ≤ bs.length := by
  match bs with
  | [] => cases h
  | [a] => cases h
  | a :: b :: cs =>
    simp only [decode, decodeM3Token, byteItems_cons, takeByte_byte, bind_ok, takeUpTo_byteItems, takeMaybe_byteItems] at h
    split at h
    · cases h; simp [encode, byteItems]
    · cases h; cases cs <;> simp [encode, byteItems]

/-- A chunk start is no longer than the bytes it is read from. -/
theorem decode_m2Start_length {bs : List Byte} {i : Instr} {r : List Item} (h : decode .m2Start (byteItems bs) = .ok i r) :
    (encode i).length ≤ bs.length := by
  match bs with
  | [] => cases h
  | a :: cs =>
    simp only [decode, decodeM2Start, byteItems_cons, takeByte_byte, bind_ok, takeMaybe_byteItems] at h
    cases h; cases cs <;> simp [encode, byteItems]

/-- A flag word is read from two bytes at least. -/
theorem decode_m2FlagWord_length {bs : List Byte} {i : Instr} {r : List Item}
    (h : decode .m2FlagWord (byteItems bs) = .ok i r) : 2 ≤ bs.length := by
  match bs with
  | [] => cases h
  | [a] => cases h
  | a :: b :: cs => simp

end Sys2Proof.Reading
end

section
/-! The family 10_state, the invariants: what a step of the engine makes of the state, what an action of the host does, and from the two that
every step keeps the invariant of the machine. -/

namespace Sys2Proof.Invariants

open Sys2Proof.Machine Sys2Proof.Safety Sys2Proof.Scope Sys2Proof.Reading

/-! ## The invariant, place by place

`Inv` speaks of several phases at once. Here it is cut in two: what holds in every phase, and what the one phase the engine is in asks for. -/

/-- Every space canonical, and SCRATCH and `OPOS` as 20_memory R73 has them: what holds in every phase. -/
structure SpacesInv (s : State) : Prop where
  in_wf : s.IN.wf = true
  out_wf : s.OUT.wf = true
  seg_wf : s.SEG.wf = true
  sub_wf : s.SUB.wf = true
  chunk_wf : s.CHUNK.wf = true
  scratch_wf : s.SCRATCH.wf = true
  scratch_len : s.SCRATCH.len = 65536
  opos_le : s.m2d.OPOS.toNat ≤ 65536

theorem spacesInv_iff (s : State) : SpacesInv s ↔ MemoryInv s ∧ ScratchInv s :=
  ⟨fun ⟨hIn, hOut, hSeg, hSub, hChunk, hScratch, hLen, hOpos⟩ => ⟨⟨hIn, hOut, hSeg, hSub, hChunk, hScratch⟩, hLen, hOpos⟩,
    fun ⟨⟨hIn, hOut, hSeg, hSub, hChunk, hScratch⟩, hLen, hOpos⟩ => ⟨hIn, hOut, hSeg, hSub, hChunk, hScratch, hLen, hOpos⟩⟩

/-- A record or chunk is left (40_framer R156, R163). -/
def RecordLeft (s : State) : Prop := s.fr.SEGIDX.toNat < s.fr.NB.toNat

/-- Inside a mode-3 segment (41_mode3_decode R200). -/
structure InSegment (s : State) : Prop where
  left : RecordLeft s
  ip_le : s.m3d.IP.toNat ≤ s.SEG.len
  seg_lt : s.SEG.len < 2 ^ 32
  out_end : s.m3d.BASE + s.m3d.OP = s.OUT.len

/-- Inside a mode-2 container (40_framer R159, R162). -/
structure InContainer (s : State) : Prop where
  out_len : s.OUT.len = s.fr.US.toNat
  coff_le : s.fr.COFF.toNat ≤ s.fr.US.toNat
  left : RecordLeft s

/-- Reading the items of the place `c` of a chunk (43_mode2_decode R265). -/
structure InToken (c : Ctx) (s : State) : Prop where
  container : InContainer s
  chunk_lt : s.CHUNK.len < 2 ^ 16 - 2
  off_le : s.m2d.OFF.toNat ≤ s.CHUNK.len
  nbits_le : s.m2d.NBITS.toNat ≤ 16
  begins : beginsToken c s.m2d.tok = true

/-- What the phase `p` asks of the rest of the state. -/
def PlaceInv (p : Phase) (s : State) : Prop :=
  match p with
  | .dispatch => s.OUT = Space.zeros 0
  | .header => s.OUT = Space.zeros 0
  | .m3Record => RecordLeft s
  | .m3Token => InSegment s
  | .m2Chunk => InContainer s
  | .m2Start => InContainer s ∧ s.CHUNK.len < 2 ^ 16 - 2
  | .m2Token => InToken .m2Token s
  | .m2Length => InToken .m2Length s
  | .m2CopyOut => InContainer s
  | _ => True

theorem recordLeft_iff (s : State) : RecordLeft s ↔ s.fr.SEGIDX.toNat < s.fr.NB.toNat := Iff.rfl

theorem inSegment_iff (s : State) : InSegment s ↔ s.fr.SEGIDX.toNat < s.fr.NB.toNat ∧
    s.m3d.IP.toNat ≤ s.SEG.len ∧ s.SEG.len < 2 ^ 32 ∧ s.m3d.BASE + s.m3d.OP = s.OUT.len :=
  ⟨fun ⟨hLeft, hIp, hSeg, hOut⟩ => ⟨hLeft, hIp, hSeg, hOut⟩, fun ⟨hLeft, hIp, hSeg, hOut⟩ => ⟨hLeft, hIp, hSeg, hOut⟩⟩

theorem inContainer_iff (s : State) : InContainer s ↔
    s.OUT.len = s.fr.US.toNat ∧ s.fr.COFF.toNat ≤ s.fr.US.toNat ∧ s.fr.SEGIDX.toNat < s.fr.NB.toNat :=
  ⟨fun ⟨hOut, hCoff, hLeft⟩ => ⟨hOut, hCoff, hLeft⟩, fun ⟨hOut, hCoff, hLeft⟩ => ⟨hOut, hCoff, hLeft⟩⟩

theorem inToken_iff (c : Ctx) (s : State) : InToken c s ↔
    InContainer s ∧ (s.CHUNK.len < 2 ^ 16 - 2 ∧ s.m2d.OFF.toNat ≤ s.CHUNK.len ∧ s.m2d.NBITS.toNat ≤ 16) ∧
      beginsToken c s.m2d.tok = true :=
  ⟨fun ⟨hC, hLen, hOff, hBits, hTok⟩ => ⟨hC, ⟨hLen, hOff, hBits⟩, hTok⟩,
    fun ⟨hC, ⟨hLen, hOff, hBits⟩, hTok⟩ => ⟨hC, hLen, hOff, hBits, hTok⟩⟩

/-- What the phase asks for is what the three phase-dependent parts of `Inv` say of it. -/
theorem placeInv_iff (s : State) : PlaceInv s.phase s ↔ StartInv s ∧ Mode3Inv s ∧ Mode2Inv s := by
  unfold StartInv Mode3Inv Mode2Inv inM2Container inM2Token
  cases s.phase <;> simp [PlaceInv, recordLeft_iff, inSegment_iff, inContainer_iff, inToken_iff]

theorem inv_iff (s : State) : Inv s ↔ StatusInv s ∧ SpacesInv s ∧ PlaceInv s.phase s := by
  rw [spacesInv_iff, placeInv_iff]
  constructor
  · rintro ⟨hMem, hStatus, hStart, hScratch, h3, h2⟩
    exact ⟨hStatus, ⟨hMem, hScratch⟩, hStart, h3, h2⟩
  · rintro ⟨hStatus, ⟨hMem, hScratch⟩, hStart, h3, h2⟩
    exact ⟨hMem, hStatus, hStart, hScratch, h3, h2⟩

/-! ## What a step of the engine makes of the state -/

/-- `u` is `s` after work that leaves STATE and ERR alone and keeps the spaces canonical. -/
structure Worked (s u : State) : Prop where
  state : u.STATE = s.STATE
  err : u.ERR = s.ERR
  spaces : SpacesInv s → SpacesInv u

theorem Worked.trans {s u t : State} (h : Worked s u) (h' : Worked u t) : Worked s t :=
  ⟨h'.state.trans h.state, h'.err.trans h.err, h'.spaces ∘ h.spaces⟩

theorem worked_advanceSp (n : Nat) (s : State) : Worked s (advanceSp n s) :=
  ⟨by simp, by simp, fun ⟨hIn, hOut, hSeg, hSub, hChunk, hScratch, hLen, hOpos⟩ => by constructor <;> simpa⟩

section
variable {s : State} {out : Space} {regs : M2DecRegs} {sp : BitVec 64} {subpos : Nat} {fr : FramerRegs} {m3d : M3DecRegs}
  {m3e : M3EncRegs} {m2e : M2EncRegs} {recs : List Rec} {p : Phase} {n : Nat}

/-- Writing a canonical OUT and registers other than `OPOS` is such work. -/
theorem worked_out (hOut : s.OUT.wf = true → out.wf = true) (hOpos : regs.OPOS = s.m2d.OPOS) :
    Worked s { s with OUT := out, m2d := regs, SP := sp, SUBPOS := subpos, fr := fr, m3d := m3d, m3e := m3e, m2e := m2e,
                      recs := recs, phase := p, fresh := n } :=
  ⟨rfl, rfl, fun h => { h with out_wf := hOut h.out_wf, opos_le := by rw [hOpos]; exact h.opos_le }⟩

theorem worked_registers (hOpos : regs.OPOS = s.m2d.OPOS) :
    Worked s { s with m2d := regs, SP := sp, SUBPOS := subpos, fr := fr, m3d := m3d, m3e := m3e, m2e := m2e, recs := recs,
                      phase := p, fresh := n } :=
  worked_out id hOpos

end

/-- All a step of a running engine can do: work and go on where the next phase's facts hold, or work and end the command, in success, in an
error, or (log 26) by having nothing to run. -/
inductive Advance (s : State) : State → Prop
  | goOn {u : State} (work : Worked s u) (running : u.phase ≠ .waiting)
      (place : PlaceInv s.phase s → PlaceInv u.phase u) : Advance s u
  | finish {u : State} (work : Worked s u) : Advance s (finish u)
  | raise (e : ErrorKind) {u : State} (work : Worked s u) : Advance s (raise e u)
  | stop {u : State} (work : Worked s u) : Advance s { u with STATE := .idle, phase := .waiting }

/-- Work before a step, which keeps what the phase asks for, is part of the step. -/
theorem Advance.after {s u t : State} (work : Worked s u) (place : PlaceInv s.phase s → PlaceInv u.phase u)
    (h : Advance u t) : Advance s t := by
  cases h with
  | goOn w running p => exact .goOn (work.trans w) running (p ∘ place)
  | finish w => exact .finish (work.trans w)
  | raise e w => exact .raise e (work.trans w)
  | stop w => exact .stop (work.trans w)

theorem statusInv_finish (s : State) : StatusInv (finish s) := by simp [StatusInv]

theorem statusInv_raise (e : ErrorKind) (s : State) : StatusInv (raise e s) := by
  obtain ⟨hPos, hLe⟩ := code_range e
  have hNe : e.code ≠ 0 := by intro h; rw [h] at hPos; exact absurd hPos (by decide)
  exact ⟨iff_of_true rfl hNe, hLe, by simp⟩

/-- While a command runs there is no error. -/
theorem busy_of_running {s : State} (h : StatusInv s) (hp : s.phase ≠ .waiting) : s.STATE = .busy ∧ s.ERR = 0 := by
  obtain ⟨hErr, -, hBusy⟩ := h
  have hState := hBusy.mpr hp
  refine ⟨hState, not_not.mp fun hNe => ?_⟩
  simp [hErr.mpr hNe] at hState

theorem Advance.statusInv {s t : State} (h : Advance s t) (hs : StatusInv s) (hp : s.phase ≠ .waiting) : StatusInv t := by
  obtain ⟨hState, hErr⟩ := busy_of_running hs hp
  cases h with
  | goOn w running _ => simp [StatusInv, w.state, w.err, hState, hErr, running]
  | finish _ => exact statusInv_finish _
  | raise e _ => exact statusInv_raise e _
  | stop w => simp [StatusInv, w.err, hErr]

theorem spacesInv_finish {s : State} (h : SpacesInv s) : SpacesInv (finish s) := by
  obtain ⟨hIn, hOut, hSeg, hSub, hChunk, hScratch, hLen, hOpos⟩ := h
  constructor <;> simpa

theorem spacesInv_raise (e : ErrorKind) {s : State} (h : SpacesInv s) : SpacesInv (raise e s) :=
  { h with out_wf := ofList_wf _ }

theorem Advance.inv {s t : State} (h : Advance s t) (hs : Inv s) (hp : s.phase ≠ .waiting) : Inv t := by
  obtain ⟨hStatus, hSpaces, hPlace⟩ := (inv_iff s).mp hs
  refine (inv_iff t).mpr ⟨h.statusInv hStatus hp, ?_⟩
  cases h with
  | goOn w _ place => exact ⟨w.spaces hSpaces, place hPlace⟩
  | finish w => exact ⟨spacesInv_finish (w.spaces hSpaces), by simp [PlaceInv]⟩
  | raise e w => exact ⟨spacesInv_raise e (w.spaces hSpaces), trivial⟩
  | stop w => exact ⟨{ w.spaces hSpaces with }, trivial⟩

/-! ## The framer (40_framer R150 to R164) -/

/-- `SEGIDX` never wraps while it stays below `NB`. -/
theorem segidx_succ {i n : BitVec 32} (h : i.toNat + 1 < n.toNat) : (i + 1).toNat < n.toNat := by bv_omega

theorem nextRecord_advance (s : State) : Advance s (nextRecord s) := by
  obtain ⟨hlt, h⟩ | ⟨-, h⟩ := nextRecord_cases s
  · rw [h]
    exact .goOn (worked_registers rfl) (by simp) fun _ => segidx_succ hlt
  · rw [h]
    exact .finish (worked_registers rfl)

theorem execM3ContainerHeader_advance (flag nb cs maxrec us : BitVec 32) (s : State) :
    Yields (Advance s) (execM3ContainerHeader flag nb cs maxrec us s) := by
  have hw : Worked s { s with
      fr := { s.fr with FLAG := flag, NB := nb, CS := cs, MAXREC := maxrec, US := us, SEGIDX := 0 }, phase := .m3Record } :=
    worked_registers rfl
  have hw := hw.trans (worked_advanceSp 20 _)
  unfold execM3ContainerHeader
  split
  next => exact .finish hw
  next hnb => exact .goOn hw (by simp) fun _ => by simpa [PlaceInv, recordLeft_iff] using BitVec.toNat_pos_of_ne_zero hnb

theorem execM3BlockRecord_advance {bs ubs bt : BitVec 32} {payload : List Byte} {s : State} (hp : s.phase = .m3Record)
    (hlen : payload.length ≤ bs.toNat - 4) : Yields (Advance s) (execM3BlockRecord bs ubs bt payload s) := by
  have hw : Worked s { s with fr := { s.fr with BS := bs, UBS := ubs, BT := bt }, SEG := Space.ofList payload } :=
    ⟨rfl, rfl, fun h => { h with seg_wf := ofList_wf payload }⟩
  have hw := hw.trans (worked_advanceSp (12 + payload.length) _)
  unfold execM3BlockRecord
  split_ifs
  · exact .raise .badHeader hw
  · exact .raise .truncatedInput hw
  · refine .goOn (hw.trans (worked_registers rfl)) (by simp) fun hPlace => ?_
    rw [hp] at hPlace
    exact ⟨by simpa [PlaceInv, recordLeft_iff] using hPlace, by simp,
      by simp only [startSegment_SEG, advanceSp_SEG, ofList_len]; omega, by simp⟩
  · refine .after (hw.trans ?_) ?_ (nextRecord_advance _)
    · exact worked_out (fun h => setAll_wf h _ _) rfl
    · simp [hp, PlaceInv, recordLeft_iff]

theorem worked_m2Container (us : BitVec 32) (sub : List Byte) {s : State} (fr : FramerRegs) :
    Worked s { s with OUT := Space.zeros us.toNat, SUB := Space.ofList sub, SUBPOS := 0, fr := fr, phase := .m2Chunk } :=
  ⟨rfl, rfl, fun h => { h with out_wf := zeros_wf us.toNat, sub_wf := ofList_wf sub }⟩

theorem execM2ContainerHeader_advance (cs us nb : BitVec 32) (sub : List Byte) (s : State) :
    Yields (Advance s) (execM2ContainerHeader cs us nb sub s) := by
  have hw : Worked s { s with fr := { s.fr with FLAG := cs, CS := cs, US := us, NB := nb } } := worked_registers rfl
  have hw := hw.trans (worked_advanceSp (12 + sub.length) _)
  unfold execM2ContainerHeader
  split_ifs with _ _ hnb
  · exact .raise .badHeader hw
  · exact .raise .truncatedInput (hw.trans (worked_m2Container us sub _))
  · exact .finish (hw.trans (worked_m2Container us sub _))
  · refine .goOn (hw.trans (worked_m2Container us sub _)) (by simp) fun _ => ?_
    exact ⟨by simp, by simp, by simpa [recordLeft_iff] using BitVec.toNat_pos_of_ne_zero hnb⟩

theorem execM2ChunkRecord_advance {bs : BitVec 16} {chunk : List Byte} (cont : Option Byte) {s : State} (hp : s.phase = .m2Chunk)
    (hlen : chunk.length ≤ bs.toNat - 2) : Yields (Advance s) (execM2ChunkRecord bs chunk cont s) := by
  have hw : Worked s { s with fr := { s.fr with BS := bs.setWidth 32 }, CHUNK := Space.ofList chunk,
                              SUBPOS := s.SUBPOS + 2 + chunk.length, phase := .m2Start } :=
    ⟨rfl, rfl, fun h => { h with chunk_wf := ofList_wf chunk }⟩
  unfold execM2ChunkRecord
  split_ifs
  · exact .raise .badHeader hw
  · exact .raise .truncatedInput hw
  · refine .goOn hw (by simp) fun hPlace => ?_
    rw [hp] at hPlace
    exact ⟨{ hPlace with }, by simp only [ofList_len]; omega⟩

theorem stopTest_advance {s : State} (hp : s.phase = .m2CopyOut) : Advance s (stopTest s) := by
  unfold stopTest
  split
  · exact .finish (worked_registers rfl)
  split
  · exact .finish (worked_registers rfl)
  split_ifs with _ hlt
  · exact .finish (worked_registers rfl)
  · refine .goOn (worked_registers rfl) (by simp) fun hPlace => ?_
    rw [hp] at hPlace
    exact { hPlace with left := segidx_succ hlt }
  · exact .finish (worked_registers rfl)

/-- Writing inside a space leaves its length. -/
theorem setAll_len_of_fits {m : Space} {a : Nat} {bs : List Byte} (h : a + bs.length ≤ m.len) : (m.setAll a bs).len = m.len := by
  rw [setAll_len_of_le _ (by omega)]
  omega

/-- `COFF` never wraps while the chunk fits in the output. -/
theorem coff_add_le {coff us : BitVec 32} {k : Nat} (h : coff.toNat + k ≤ us.toNat) :
    (coff + BitVec.ofNat 32 k).toNat ≤ us.toNat := by bv_omega

theorem copyOut_advance {s : State} (hp : s.phase = .m2CopyOut) : Advance s (copyOut s) := by
  unfold copyOut
  split
  next => exact .raise .overflow (worked_registers rfl)
  next hfit =>
    refine .after ?_ (fun hPlace => ?_) (stopTest_advance hp)
    · exact worked_out (fun h => setAll_wf h _ _) rfl
    rw [hp] at hPlace
    obtain ⟨hOut, hCoff, hLeft⟩ := hPlace
    simp only [hp]
    refine ⟨?_, ?_, hLeft⟩
    · refine (setAll_len_of_fits ?_).trans hOut
      rw [slice_length, hOut]
      omega
    · exact coff_add_le (not_lt.mp hfit)

/-! ## Mode 3 (41_mode3_decode R200 to R209) -/

theorem worked_m3ControlPair (a b : Byte) (s : State) : Worked s (m3ControlPair a b s) := worked_registers rfl

theorem worked_m3Emit (bs : List Byte) (used : Nat) (s : State) : Worked s (m3Emit bs used s) :=
  worked_out (fun h => setAll_wf h _ _) rfl

theorem worked_m3Copy (d n : Nat) (s : State) : Worked s (m3Copy d n s) :=
  worked_out (fun h => copyBack_wf h _ _ _) rfl

theorem out_end_m3Emit {s : State} (bs : List Byte) (used : Nat) (h : s.m3d.BASE + s.m3d.OP = s.OUT.len) :
    (m3Emit bs used s).m3d.BASE + (m3Emit bs used s).m3d.OP = (m3Emit bs used s).OUT.len := by
  simp only [m3Emit_m3d, m3Emit_OUT]
  rw [setAll_len_of_le _ (le_of_eq h)]
  omega

theorem out_end_m3Copy {s : State} (d n : Nat) (h : s.m3d.BASE + s.m3d.OP = s.OUT.len) :
    (m3Copy d n s).m3d.BASE + (m3Copy d n s).m3d.OP = (m3Copy d n s).OUT.len := by
  simp only [m3Copy_m3d, m3Copy_OUT]
  rw [copyBack_len _ _ _ _ (le_of_eq h)]
  omega

/-- `IP` never wraps inside a segment. -/
theorem ip_add_le {ip : BitVec 32} {n k : Nat} (h : ip.toNat + (k + 2) ≤ n) (hn : n < 2 ^ 32) :
    (ip + 2 + BitVec.ofNat 32 k).toNat ≤ n := by bv_omega

theorem execM3Lit_advance {n : Byte} {data : List Byte} {s : State} (hp : s.phase = .m3Token)
    (hlen : s.m3d.IP.toNat + (data.length + 2) ≤ s.SEG.len) : Yields (Advance s) (execM3Lit n data s) := by
  have hPair := worked_m3ControlPair 0 n s
  unfold execM3Lit
  split
  · exact .raise .truncatedInput hPair
  · refine .goOn (hPair.trans (worked_m3Emit _ _ _)) (by simp [hp]) fun hPlace => ?_
    rw [hp] at hPlace
    simp only [m3Emit_phase, m3ControlPair_phase, hp]
    exact { hPlace with ip_le := ip_add_le hlen hPlace.seg_lt, out_end := out_end_m3Emit _ _ hPlace.out_end }

theorem execM3Ref_advance {a b : Byte} {c : Option Byte} {s : State} (hp : s.phase = .m3Token)
    (hlen : s.m3d.IP.toNat + (c.toList.length + 2) ≤ s.SEG.len) : Yields (Advance s) (execM3Ref a b c s) := by
  have hPair := worked_m3ControlPair a b s
  have hCopy := hPair.trans (worked_m3Copy (m3Distance b) a.toNat _)
  unfold execM3Ref
  split_ifs
  · exact .raise .badDistance hPair
  · trivial
  cases c with
  | none => exact .raise .truncatedInput hCopy
  | some v =>
    refine .goOn (hCopy.trans (worked_m3Emit _ _ _)) (by simp [hp]) fun hPlace => ?_
    rw [hp] at hPlace
    simp only [m3Emit_phase, m3Copy_phase, m3ControlPair_phase, hp]
    exact { hPlace with
      ip_le := ip_add_le hlen hPlace.seg_lt
      out_end := out_end_m3Emit _ _ (out_end_m3Copy _ _ hPlace.out_end) }

/-! ## Mode 2 (43_mode2_decode R260 to R276) -/

/-- Writing SCRATCH up to a new `OPOS` that lies within it. -/
theorem worked_scratch {s : State} {scratch : Space} {regs : M2DecRegs} (p : Phase) (hw : s.SCRATCH.wf = true → scratch.wf = true)
    (hLen : s.SCRATCH.len = 65536 → scratch.len = 65536) (hOpos : regs.OPOS.toNat ≤ 65536) :
    Worked s { s with SCRATCH := scratch, m2d := regs, phase := p } :=
  ⟨rfl, rfl, fun hs => { hs with scratch_wf := hw hs.scratch_wf, scratch_len := hLen hs.scratch_len, opos_le := hOpos }⟩

theorem fillScratch_advance {s : State} (c : Byte) (k : Nat) (hp : s.phase = .m2Token) : Advance s (fillScratch c k s) := by
  obtain ⟨-, h⟩ | ⟨hFits, h⟩ := fillScratch_cases c k s
  · rw [h]
    exact .raise .overflow (worked_registers rfl)
  · rw [h]
    refine .goOn (worked_scratch _ (fun hs => setAll_wf hs _ _) (fun hs => ?_) ?_) (by simp [hp]) fun hPlace => ?_
    · refine (setAll_len_of_fits ?_).trans hs
      rwa [List.length_replicate, hs]
    · rwa [opos_add hFits]
    · rw [hp] at hPlace
      simp only [hp]
      exact { hPlace with container := { hPlace.container with } }

/-- A length code executed: the token loop goes on with no item held. -/
theorem setupRun_advance {s : State} (len : Nat) (hp : s.phase = .m2Length) (hTok : s.m2d.tok = []) : Advance s (setupRun len s) := by
  obtain ⟨-, h⟩ | ⟨-, -, -, h⟩ | ⟨-, -, hFits, h⟩ := setupRun_cases len s
  · rw [h]
    exact .raise .badDistance (worked_registers rfl)
  · rw [h]
    exact .raise .overflow (worked_registers rfl)
  · rw [h]
    refine .goOn (worked_scratch _ (fun hs => copyBack_wf hs _ _ _) (fun hs => ?_) ?_) (by simp) fun hPlace => ?_
    · rw [copyBack_len _ _ _ _ (by omega)]
      omega
    · rwa [opos_add hFits]
    · rw [hp] at hPlace
      exact { hPlace with container := { hPlace.container with }, begins := by rw [hTok]; rfl }

theorem execM2ChunkStart_advance {method : Byte} {g : Option Byte} {s : State} (hp : s.phase = .m2Start)
    (hLen : g.toList.length + 1 ≤ s.CHUNK.len) : Yields (Advance s) (execM2ChunkStart method g s) := by
  unfold execM2ChunkStart
  split
  · exact .raise .unsupportedMethod (worked_registers rfl)
  cases g with
  | none => exact .raise .outOfData (worked_registers rfl)
  | some v =>
    refine .goOn ⟨rfl, rfl, fun h => { h with opos_le := Nat.zero_le _ }⟩ (by simp) fun hPlace => ?_
    rw [hp] at hPlace
    obtain ⟨hContainer, hChunk⟩ := hPlace
    exact ⟨{ hContainer with }, hChunk, hLen, (by decide : 8 ≤ 16), rfl⟩

/-- A back-reference token hands on to its length code. -/
theorem beginRun_advance {s : State} (d : BitVec 13) (hp : s.phase = .m2Token) (hTok : s.m2d.tok = []) : Advance s (beginRun d s) := by
  refine .goOn (worked_registers rfl) (by simp) fun hPlace => ?_
  rw [hp] at hPlace
  exact { hPlace with container := { hPlace.container with }, begins := by rw [beginRun_m2d, hTok]; rfl }

/-- What a token writes to `RUN`, `LO` and `BR` before it is carried out changes nothing the phase asks for. -/
theorem Advance.after_run_lo_br {s t : State} {run : BitVec 13} {lo : Byte} {br : BitVec 1} (hp : s.phase = .m2Token)
    (h : Advance { s with m2d := { s.m2d with RUN := run, LO := lo, BR := br } } t) : Advance s t := by
  refine .after ?_ (fun hPlace => ?_) h
  · exact worked_registers rfl
  rw [hp] at hPlace
  simp only [hp]
  exact { hPlace with container := { hPlace.container with } }

theorem execM2End_advance {s : State} (hp : s.phase = .m2Token) : Yields (Advance s) (execM2End s) := by
  refine .goOn (worked_registers rfl) (by simp) fun hPlace => ?_
  rw [hp] at hPlace
  exact { hPlace.container with }

theorem exec_m2Token_advance {i : Instr} {s : State} (hc : i.ctx = .m2Token) (hp : s.phase = .m2Token) (hTok : s.m2d.tok = []) :
    Yields (Advance s) (exec i s) := by
  cases i with
  | m2Lit c => exact fillScratch_advance c 1 hp
  | m2Sref d => exact beginRun_advance (byteDistance d) hp hTok
  | m2Lref h lo => exact .after_run_lo_br hp (beginRun_advance (lrefDistance h lo) hp hTok)
  | m2Aref lo => exact .after_run_lo_br hp (beginRun_advance (byteDistance lo) hp hTok)
  | m2End => exact execM2End_advance hp
  | m2Rpts lo v c => exact .after_run_lo_br hp (fillScratch_advance c (shortCount v) hp)
  | m2Rptl lo v x c => exact .after_run_lo_br hp (fillScratch_advance c (longCount v x) hp)
  | _ => cases hc

theorem exec_m2Length_advance {i : Instr} {s : State} (hc : i.ctx = .m2Length) (hp : s.phase = .m2Length) (hTok : s.m2d.tok = []) :
    Yields (Advance s) (exec i s) := by
  cases i with
  | len2 => exact setupRun_advance 2 hp hTok
  | len3 => exact setupRun_advance 3 hp hTok
  | len4 => exact setupRun_advance 4 hp hTok
  | len5 => exact setupRun_advance 5 hp hTok
  | len6to13 x => exact setupRun_advance (midLength x) hp hTok
  | len14to269 x => exact setupRun_advance (byteLength x) hp hTok
  | _ => cases hc

/-! ## Fetching -/

theorem runFetched_advance {s : State} (e : ErrorKind) {tk : Take Instr}
    (h : ∀ i r, tk = .ok i r → Yields (Advance s) (exec i s)) : Yields (Advance s) (runFetched e tk s) := by
  cases tk with
  | ok i r => exact h i r rfl
  | needByte => exact .raise e (worked_registers rfl)
  | needFlag => trivial
  | wrongKind => trivial

theorem headerStep_advance (s : State) : Yields (Advance s) (headerStep s) := by
  refine runFetched_advance _ fun i r h => ?_
  obtain ⟨hc, -⟩ := decode_readAt _ _ i r h
  cases i with
  | m3ContainerHeader flag nb cs maxrec us => exact execM3ContainerHeader_advance flag nb cs maxrec us s
  | m2ContainerHeader cs us nb sub => exact execM2ContainerHeader_advance cs us nb sub s
  | _ => cases hc

theorem m3RecordStep_advance {s : State} (hp : s.phase = .m3Record) : Yields (Advance s) (m3RecordStep s) := by
  refine runFetched_advance _ fun i r h => ?_
  obtain ⟨hc, hLen⟩ := decode_readAt _ _ i r h
  cases i with
  | m3BlockRecord bs ubs bt payload => exact execM3BlockRecord_advance hp hLen
  | _ => cases hc

theorem m3TokenStep_advance {s : State} (hp : s.phase = .m3Token) : Yields (Advance s) (m3TokenStep s) := by
  unfold m3TokenStep
  split
  next => exact nextRecord_advance s
  next hIp =>
    refine runFetched_advance _ fun i r h => ?_
    obtain ⟨hc, -⟩ := decode_readAt _ _ i r h
    have hLen : s.m3d.IP.toNat + (encode i).length ≤ s.SEG.len := by
      have := decode_m3Token_length h
      rw [slice_length] at this
      omega
    cases i with
    | m3Lit n data => exact execM3Lit_advance hp (by simpa [encode, byteItems] using hLen)
    | m3Ref a b c => exact execM3Ref_advance hp (by simpa [encode, byteItems] using hLen)
    | _ => cases hc

theorem m2ChunkStep_advance {s : State} (hp : s.phase = .m2Chunk) : Yields (Advance s) (m2ChunkStep s) := by
  refine runFetched_advance _ fun i r h => ?_
  obtain ⟨hc, hLen⟩ := decode_readAt _ _ i r h
  cases i with
  | m2ChunkRecord bs chunk cont => exact execM2ChunkRecord_advance cont hp hLen
  | _ => cases hc

theorem m2StartStep_advance {s : State} (hp : s.phase = .m2Start) : Yields (Advance s) (m2StartStep s) := by
  refine runFetched_advance _ fun i r h => ?_
  obtain ⟨hc, -⟩ := decode_readAt _ _ i r h
  have hLen : (encode i).length ≤ s.CHUNK.len := (decode_m2Start_length h).trans (by rw [slice_length]; omega)
  cases i with
  | m2ChunkStart method g => exact execM2ChunkStart_advance hp (by simpa [encode, byteItems] using hLen)
  | _ => cases hc

/-! ## The mode-2 reader (43_mode2_decode R262 to R265, R273) -/

/-- The engine reads the items of the place `c`. -/
def AtToken (c : Ctx) (s : State) : Prop := s.phase = .m2Token ∧ c = .m2Token ∨ s.phase = .m2Length ∧ c = .m2Length

theorem AtToken.running {c : Ctx} {s : State} (h : AtToken c s) : s.phase ≠ .waiting := by
  obtain ⟨hp, -⟩ | ⟨hp, -⟩ := h <;> simp [hp]

theorem AtToken.placeInv {c : Ctx} {s : State} (h : AtToken c s) : PlaceInv s.phase = InToken c := by
  obtain ⟨hp, rfl⟩ | ⟨hp, rfl⟩ := h
  · rw [hp]; rfl
  · rw [hp]; rfl

theorem AtToken.onDemand {c : Ctx} {s : State} (h : AtToken c s) : OnDemand (decode c) := by
  obtain ⟨-, rfl⟩ | ⟨-, rfl⟩ := h
  · exact onDemand_decodeM2Token
  · exact onDemand_decodeM2Length

/-- Reading on: only the reader's registers move, and what the place asks of them still holds. -/
theorem AtToken.advance {c : Ctx} {s : State} (h : AtToken c s) {regs : M2DecRegs} (hOpos : regs.OPOS = s.m2d.OPOS)
    (hRegs : InToken c s → regs.OFF.toNat ≤ s.CHUNK.len ∧ regs.NBITS.toNat ≤ 16 ∧ beginsToken c regs.tok = true) :
    Advance s { s with m2d := regs } := by
  refine .goOn (worked_registers hOpos) h.running fun hPlace => ?_
  rw [h.placeInv] at hPlace
  obtain ⟨hOff, hBits, hTok⟩ := hRegs hPlace
  change PlaceInv s.phase _
  rw [h.placeInv]
  exact ⟨{ hPlace.container with }, hPlace.chunk_lt, hOff, hBits, hTok⟩

/-- `OFF` never wraps inside a chunk. -/
theorem off_add_le {off : BitVec 16} {n k : Nat} (h : off.toNat + k ≤ n) (hn : n < 2 ^ 16 - 2) :
    (off + BitVec.ofNat 16 k).toNat ≤ n := by bv_omega

theorem readFlag_advance {c : Ctx} {s : State} (h : AtToken c s) (hd : decode c s.m2d.tok = .needFlag) :
    Yields (Advance s) (readFlag s) := by
  unfold readFlag
  split
  next =>
    refine runFetched_advance _ fun i r hi => ?_
    obtain ⟨hc, -⟩ := decode_readAt _ _ i r hi
    have hLen := decode_m2FlagWord_length hi
    rw [slice_length] at hLen
    cases i with
    | m2FlagWord w => exact h.advance rfl fun hTok => ⟨off_add_le (k := 2) (by omega) hTok.chunk_lt, by simp, hTok.begins⟩
    | _ => cases hc
  next hBits =>
    refine h.advance rfl fun hTok => ⟨hTok.off_le, ?_, beginsToken_of_begins (h.onDemand.flag _ hd)⟩
    have := hTok.nbits_le
    simp only [takeFlagBit_NBITS]
    bv_omega

theorem readByte_advance {c : Ctx} {s : State} (h : AtToken c s) (hd : decode c s.m2d.tok = .needByte) :
    Yields (Advance s) (readByte s) := by
  unfold readByte
  split
  next => exact .raise .outOfData (worked_registers rfl)
  next v r hv =>
    have hLen := congrArg List.length hv
    rw [slice_length, List.length_cons] at hLen
    exact h.advance rfl fun hTok =>
      ⟨off_add_le (k := 1) (by omega) hTok.chunk_lt, hTok.nbits_le, beginsToken_of_begins (h.onDemand.byte v hd)⟩

/-- The items held are handed over to the instruction. -/
def dropItems (s : State) : State := { s with m2d := { s.m2d with tok := [] } }

theorem m2ReadStep_advance {c : Ctx} {s : State} (h : AtToken c s) : Yields (Advance s) (m2ReadStep c s) := by
  unfold m2ReadStep
  cases hd : decode c s.m2d.tok with
  | ok i r =>
    obtain ⟨hc, -⟩ := decode_readAt _ _ i r hd
    have hWork : Worked s (dropItems s) := worked_registers rfl
    have hPlace : PlaceInv s.phase s → PlaceInv s.phase (dropItems s) := by
      rw [h.placeInv]
      exact fun hTok => { hTok with container := { hTok.container with }, begins := beginsToken_of_begins h.onDemand.nil }
    refine Yields.imp (P := Advance (dropItems s)) ?_ fun t => Advance.after hWork hPlace
    obtain ⟨hp, rfl⟩ | ⟨hp, rfl⟩ := h
    · exact exec_m2Token_advance hc hp rfl
    · exact exec_m2Length_advance hc hp rfl
  | needFlag => exact readFlag_advance h hd
  | needByte => exact readByte_advance h hd
  | wrongKind => trivial

/-! ## The encoders (40_framer R170 to R186)

Their phases ask for nothing: what is left to show is that their work keeps the spaces. -/

/-- A phase of an encoder. -/
abbrev Encoding (p : Phase) : Prop := p = .m3Split ∨ p = .m3Scan ∨ p = .m3Write ∨ p = .m2Split ∨ p = .m2Scan

theorem Advance.encode {s u : State} (work : Worked s u) (hp : Encoding u.phase) : Advance s u :=
  have hFree : u.phase ≠ .waiting ∧ PlaceInv u.phase u := by
    obtain h | h | h | h | h := hp <;> simp [h, PlaceInv]
  .goOn work hFree.1 fun _ => hFree.2

theorem m3WriteHeader_advance (s : State) : Advance s (m3WriteHeader s) := by
  dsimp only [m3WriteHeader]
  split
  · exact .raise .segmentTooLarge (worked_registers rfl)
  · exact .encode (worked_out (fun _ => ofList_wf _) rfl) (by simp [Encoding])

theorem m3SplitStep_advance (s : State) : Advance s (m3SplitStep s) := by
  dsimp only [m3SplitStep]
  split
  · split
    · exact .encode (worked_registers rfl) (by simp [Encoding])
    split
    · exact .encode (worked_registers rfl) (by simp [Encoding])
    split
    · exact .encode (worked_registers rfl) (by simp [Encoding])
    · exact .encode (worked_registers rfl) (by simp [Encoding])
  · exact m3WriteHeader_advance s

theorem m3ScanStep_advance {s : State} (hp : s.phase = .m3Scan) : Advance s (m3ScanStep s) := by
  dsimp only [m3ScanStep]
  split
  · exact .encode (worked_registers rfl) (by simp [Encoding, hp])
  · exact .encode (worked_registers rfl) (by simp [Encoding])

theorem m3WriteStep_advance {s : State} (hp : s.phase = .m3Write) : Advance s (m3WriteStep s) := by
  dsimp only [m3WriteStep]
  split
  · exact .finish (worked_registers rfl)
  split
  · exact .encode (worked_out (fun h => setAll_wf h _ _) rfl) (by simp [Encoding, hp])
  · exact .finish (worked_out (fun h => setAll_wf h _ _) rfl)

theorem m2KeepChunk_advance (S z : List Byte) {s u : State} (work : Worked s u) : Advance s (m2KeepChunk S z u) := by
  unfold m2KeepChunk
  split
  · exact .raise .segmentTooLarge work
  · exact .encode (work.trans (worked_registers rfl)) (by simp [Encoding])

theorem m2WriteContainer_advance (s : State) : Advance s (m2WriteContainer s) := by
  dsimp only [m2WriteContainer]
  split
  · exact .raise .segmentTooLarge (worked_registers rfl)
  · exact .finish (worked_out (fun _ => ofList_wf _) rfl)

theorem m2SplitStep_advance (s : State) : Advance s (m2SplitStep s) := by
  dsimp only [m2SplitStep]
  split
  · split
    · exact .raise .segmentTooLarge (worked_registers rfl)
    split
    · exact .encode (worked_registers rfl) (by simp [Encoding, m2StartScan])
    split
    · exact m2KeepChunk_advance _ _ (worked_registers rfl)
    · exact .encode (worked_registers rfl) (by simp [Encoding, m2StartScan])
  · exact m2WriteContainer_advance s

theorem m2ScanStep_advance {s : State} (hp : s.phase = .m2Scan) : Advance s (m2ScanStep s) := by
  dsimp only [m2ScanStep]
  split
  · exact .encode (worked_registers rfl) (by simp [Encoding, hp])
  · exact m2KeepChunk_advance _ _ (worked_registers rfl)

/-! ## One step -/

theorem dispatchCommand_advance {s : State} (hp : s.phase = .dispatch) : Advance s (dispatchCommand s) := by
  unfold dispatchCommand
  split
  · exact .stop (worked_registers rfl)
  · exact .goOn (worked_registers rfl) (by simp) fun hPlace => by simpa [hp, PlaceInv] using hPlace
  · split_ifs
    · exact .encode (worked_registers rfl) (by simp [Encoding])
    · exact .encode (worked_registers rfl) (by simp [Encoding])
    · exact .raise .badCommand (worked_registers rfl)
  · exact .raise .badCommand (worked_registers rfl)

/-- What a step of a running engine can do. -/
theorem engineStep_advance {s : State} (hRun : s.phase ≠ .waiting) : Yields (Advance s) (engineStep s) := by
  unfold engineStep
  cases hp : s.phase with
  | waiting => exact absurd hp hRun
  | dispatch => exact dispatchCommand_advance hp
  | header => exact headerStep_advance s
  | m3Record => exact m3RecordStep_advance hp
  | m3Token => exact m3TokenStep_advance hp
  | m2Chunk => exact m2ChunkStep_advance hp
  | m2Start => exact m2StartStep_advance hp
  | m2Token => exact m2ReadStep_advance (.inl ⟨hp, rfl⟩)
  | m2Length => exact m2ReadStep_advance (.inr ⟨hp, rfl⟩)
  | m2CopyOut => exact copyOut_advance hp
  | m3Split => exact m3SplitStep_advance s
  | m3Scan => exact m3ScanStep_advance hp
  | m3Write => exact m3WriteStep_advance hp
  | m2Split => exact m2SplitStep_advance s
  | m2Scan => exact m2ScanStep_advance hp

/-! ## The host's actions (10_state R31, R32, R44, 60_exceptions R364, 70_reset R392, R403, R404) -/

/-- What a write of CMD does. -/
theorem writeCmd_cases (c : Command) (s : State) :
    (s.STATE = .busy ∧ writeCmd c s = s) ∨
    (s.STATE = .idle ∧ c = .idle ∧ writeCmd c s = { s with CMD := .idle }) ∨
    (s.STATE ≠ .busy ∧ s.STATE ≠ .idle ∧ c = .idle ∧ writeCmd c s = clearEngine s) ∨
    (s.STATE ≠ .busy ∧ c ≠ .idle ∧ writeCmd c s = startCommand { s with CMD := c }) := by
  unfold writeCmd
  split
  next hBusy => exact .inl ⟨hBusy, rfl⟩
  next hBusy =>
    cases c with
    | idle =>
      by_cases hIdle : s.STATE = .idle
      · exact .inr (.inl ⟨hIdle, rfl, if_pos hIdle⟩)
      · exact .inr (.inr (.inl ⟨hBusy, hIdle, rfl, if_neg hIdle⟩))
    | decode => exact .inr (.inr (.inr ⟨hBusy, by simp, rfl⟩))
    | encode => exact .inr (.inr (.inr ⟨hBusy, by simp, rfl⟩))
    | reserved => exact .inr (.inr (.inr ⟨hBusy, by simp, rfl⟩))

/-- The host writes data or CMD and leaves the engine where it is. -/
def HostWrote (s t : State) : Prop :=
  ∃ input sp mode cmd, (s.IN.wf = true → input.wf = true) ∧ t = { s with IN := input, SP := sp, MODE := mode, CMD := cmd }

theorem whenNotBusy_next {s u t : State} (h : whenNotBusy s u = .next t) : s.STATE ≠ .busy ∧ t = u := by
  unfold whenNotBusy at h
  split at h
  next => cases h
  next hBusy => cases h; exact ⟨hBusy, rfl⟩

/-- What an action of the host does: it writes and leaves the engine where it is, or clears it, or starts a command, or resets. -/
theorem hostAct_cases {a : HostAction} {s t : State} (h : hostAct a s = .next t) :
    HostWrote s t ∨ (s.STATE ≠ .busy ∧ t = clearEngine s) ∨ (∃ c, t = startCommand { s with CMD := c }) ∨ t = powerOn s := by
  cases a with
  | writeIn bytes => exact .inl ⟨_, _, _, _, fun _ => ofList_wf bytes, (whenNotBusy_next h).2⟩
  | writeSp v => exact .inl ⟨_, _, _, _, id, (whenNotBusy_next h).2⟩
  | writeMode v => exact .inl ⟨_, _, _, _, id, (whenNotBusy_next h).2⟩
  | powerOn => cases h; exact .inr (.inr (.inr rfl))
  | writeCmd c =>
    cases h
    obtain ⟨-, h⟩ | ⟨-, -, h⟩ | ⟨hBusy, -, -, h⟩ | ⟨-, -, h⟩ := writeCmd_cases c s
    · exact .inl ⟨_, _, _, _, id, h⟩
    · exact .inl ⟨_, _, _, _, id, h⟩
    · exact .inr (.inl ⟨hBusy, h⟩)
    · exact .inr (.inr (.inl ⟨c, h⟩))

theorem statusInv_startCommand (s : State) : StatusInv (startCommand s) := by simp [StatusInv]

theorem statusInv_powerOn (s : State) : StatusInv (powerOn s) := by simp [StatusInv, State.reset]

theorem waiting_of_not_busy {s : State} (h : StatusInv s) (hBusy : s.STATE ≠ .busy) : s.phase = .waiting := by
  obtain ⟨-, -, hRunning⟩ := h
  exact not_not.mp fun hp => hBusy (hRunning.mpr hp)

/-- The clear leaves the engine waiting. -/
theorem statusInv_clearEngine {s : State} (h : StatusInv s) (hBusy : s.STATE ≠ .busy) : StatusInv (clearEngine s) := by
  simp [StatusInv, clearEngine, waiting_of_not_busy h hBusy]

theorem hostAct_statusInv {a : HostAction} {s t : State} (hs : StatusInv s) (h : hostAct a s = .next t) : StatusInv t := by
  obtain ⟨_, _, _, _, -, rfl⟩ | ⟨hBusy, rfl⟩ | ⟨c, rfl⟩ | rfl := hostAct_cases h
  · exact hs
  · exact statusInv_clearEngine hs hBusy
  · exact statusInv_startCommand _
  · exact statusInv_powerOn s

theorem spacesInv_reset : SpacesInv State.reset :=
  ⟨zeros_wf _, zeros_wf _, zeros_wf _, zeros_wf _, zeros_wf _, zeros_wf _, rfl, Nat.zero_le _⟩

theorem spacesInv_powerOn (s : State) : SpacesInv (powerOn s) :=
  { spacesInv_reset with in_wf := ofList_wf _, out_wf := ofList_wf _ }

theorem spacesInv_startCommand {s : State} (h : SpacesInv s) : SpacesInv (startCommand s) :=
  { h with out_wf := zeros_wf 0, seg_wf := zeros_wf 0, sub_wf := zeros_wf 0, chunk_wf := zeros_wf 0 }

theorem placeInv_of_waiting {s : State} (h : s.phase = .waiting) : PlaceInv s.phase s := by rw [h]; trivial

theorem hostAct_inv {a : HostAction} {s t : State} (hs : Inv s) (h : hostAct a s = .next t) : Inv t := by
  obtain ⟨hStatus, hSpaces, hPlace⟩ := (inv_iff s).mp hs
  refine (inv_iff t).mpr ⟨hostAct_statusInv hStatus h, ?_⟩
  obtain ⟨_, _, _, _, hIn, rfl⟩ | ⟨hBusy, rfl⟩ | ⟨c, rfl⟩ | rfl := hostAct_cases h
  · exact ⟨{ hSpaces with in_wf := hIn hSpaces.in_wf }, (placeInv_iff _).mpr ((placeInv_iff s).mp hPlace)⟩
  · exact ⟨{ hSpaces with }, placeInv_of_waiting (waiting_of_not_busy (s := s) hStatus hBusy)⟩
  · exact ⟨spacesInv_startCommand { hSpaces with }, rfl⟩
  · exact ⟨spacesInv_powerOn s, placeInv_of_waiting rfl⟩

/-! ## One step of the machine -/

/-- A step takes its turn off the schedule and is the engine's or the host's. -/
theorem step_cases {s t : State} (h : step s = .next t) :
    ∃ r, engineStep (withTurns r s) = .next t ∨ ∃ a, hostAct a (withTurns r s) = .next t := by
  unfold step at h
  split at h
  next hTurns => exact ⟨[], .inl (by rw [← h, withTurns, ← hTurns])⟩
  next r _ => exact ⟨r, .inl h⟩
  next a r _ => exact ⟨r, .inr ⟨a, h⟩⟩

theorem engineStep_of_waiting {s : State} (h : s.phase = .waiting) : engineStep s = .next s := by
  unfold engineStep; rw [h]

theorem engineStep_statusInv {s t : State} (hs : StatusInv s) (h : engineStep s = .next t) : StatusInv t := by
  by_cases hp : s.phase = .waiting
  · rw [engineStep_of_waiting hp] at h
    cases h
    exact hs
  · exact ((engineStep_advance hp).of_next h).statusInv hs hp

theorem engineStep_inv {s t : State} (hs : Inv s) (h : engineStep s = .next t) : Inv t := by
  by_cases hp : s.phase = .waiting
  · rw [engineStep_of_waiting hp] at h
    cases h
    exact hs
  · exact ((engineStep_advance hp).of_next h).inv hs hp

/-- Settles O39: a step of the engine goes on BUSY or ends the command, an error with its code in ERR, and no action of the host breaks the
agreement. -/
theorem statusStaysConsistent : Obligations.StatusStaysConsistent := by
  intro s t hs h
  obtain ⟨r, hEngine | ⟨a, hHost⟩⟩ := step_cases h
  · exact engineStep_statusInv (s := withTurns r s) hs hEngine
  · exact hostAct_statusInv (s := withTurns r s) hs hHost

/-- Settles O40: every step keeps the spaces and reaches its next phase with the facts that phase asks for. -/
theorem invariantKept : Obligations.InvariantKept := by
  intro s t hs h
  obtain ⟨r, hEngine | ⟨a, hHost⟩⟩ := step_cases h
  · exact engineStep_inv (s := withTurns r s) hs hEngine
  · exact hostAct_inv (s := withTurns r s) hs hHost

/-- Settles O41: after reset the engine waits, so no phase asks for anything, and the spaces are blank. -/
theorem invariantAtReset : Obligations.InvariantAtReset :=
  (inv_iff State.reset).mpr ⟨by simp [StatusInv, State.reset], spacesInv_reset, placeInv_of_waiting rfl⟩


end Sys2Proof.Invariants
end

section
/-! The family 10_state, the registers: the flag reader's, which no token moves, and the host's at reset, at the start of a command and at a
clear. -/

namespace Sys2Proof.Registers

open Sys2Proof.Machine Sys2Proof.Safety Sys2Proof.Scope Sys2Proof.Invariants

/-! ## The flag reader's registers (10_state R37) -/

/-- `FW`, `NBITS` and `OFF`. -/
def readerRegs (s : State) : BitVec 16 × BitVec 5 × BitVec 16 := (s.m2d.FW, s.m2d.NBITS, s.m2d.OFF)

/-- `t` has the flag reader where `s` has it. -/
abbrev ReaderKept (s t : State) : Prop := readerRegs t = readerRegs s

theorem fillScratch_readerKept (c : Byte) (k : Nat) (s : State) : ReaderKept s (fillScratch c k s) := by
  obtain ⟨-, h⟩ | ⟨-, h⟩ := fillScratch_cases c k s
  · rw [h]; rfl
  · rw [h]; rfl

theorem setupRun_readerKept (len : Nat) (s : State) : ReaderKept s (setupRun len s) := by
  obtain ⟨-, h⟩ | ⟨-, -, -, h⟩ | ⟨-, -, -, h⟩ := setupRun_cases len s
  · rw [h]; rfl
  · rw [h]; rfl
  · rw [h]; rfl

theorem advanceSp_readerKept (n : Nat) (s : State) : ReaderKept s (advanceSp n s) := by simp [ReaderKept, readerRegs]

theorem finish_readerKept (s : State) : ReaderKept s (finish s) := by simp [ReaderKept, readerRegs]

theorem nextRecord_readerKept (s : State) : ReaderKept s (nextRecord s) := by
  obtain ⟨-, h⟩ | ⟨-, h⟩ := nextRecord_cases s
  · rw [h]; rfl
  · rw [h]; exact finish_readerKept s

theorem execM3ContainerHeader_readerKept (flag nb cs maxrec us : BitVec 32) (s : State) :
    Yields (ReaderKept s) (execM3ContainerHeader flag nb cs maxrec us s) := by
  unfold execM3ContainerHeader
  split
  · exact (finish_readerKept _).trans (advanceSp_readerKept 20 _)
  · exact advanceSp_readerKept 20 _

theorem execM3BlockRecord_readerKept (bs ubs bt : BitVec 32) (payload : List Byte) (s : State) :
    Yields (ReaderKept s) (execM3BlockRecord bs ubs bt payload s) := by
  have hSp := advanceSp_readerKept (12 + payload.length)
    { s with fr := { s.fr with BS := bs, UBS := ubs, BT := bt }, SEG := Space.ofList payload }
  unfold execM3BlockRecord
  split_ifs
  · exact hSp
  · exact hSp
  · exact hSp
  · exact (nextRecord_readerKept _).trans hSp

theorem execM2ContainerHeader_readerKept (cs us nb : BitVec 32) (sub : List Byte) (s : State) :
    Yields (ReaderKept s) (execM2ContainerHeader cs us nb sub s) := by
  have hSp := advanceSp_readerKept (12 + sub.length) { s with fr := { s.fr with FLAG := cs, CS := cs, US := us, NB := nb } }
  unfold execM2ContainerHeader
  split_ifs
  · exact hSp
  · exact hSp
  · exact (finish_readerKept _).trans hSp
  · exact hSp

theorem execM2ChunkRecord_readerKept (bs : BitVec 16) (chunk : List Byte) (cont : Option Byte) (s : State) :
    Yields (ReaderKept s) (execM2ChunkRecord bs chunk cont s) := by
  unfold execM2ChunkRecord
  split_ifs
  · exact (rfl : readerRegs s = readerRegs s)
  · exact (rfl : readerRegs s = readerRegs s)
  · exact (rfl : readerRegs s = readerRegs s)

theorem m3Outcome_readerKept {s t : State} (h : M3Outcome s t) : ReaderKept s t := by
  obtain ⟨out, regs, rfl | ⟨e, rfl⟩⟩ := h
  · rfl
  · rfl

/-- No instruction but the chunk start and the flag word moves the flag reader. -/
theorem exec_readerKept {i : Instr} (hStart : i.ctx ≠ .m2Start) (hWord : i.ctx ≠ .m2FlagWord) (s : State) :
    Yields (ReaderKept s) (exec i s) := by
  cases i with
  | m2ChunkStart method g => exact absurd rfl hStart
  | m2FlagWord w => exact absurd rfl hWord
  | m3Lit n data => exact (exec_m3Token_yields rfl s).imp fun _ => m3Outcome_readerKept
  | m3Ref a b c => exact (exec_m3Token_yields rfl s).imp fun _ => m3Outcome_readerKept
  | m3ContainerHeader flag nb cs maxrec us => exact execM3ContainerHeader_readerKept flag nb cs maxrec us s
  | m3BlockRecord bs ubs bt payload => exact execM3BlockRecord_readerKept bs ubs bt payload s
  | m2ContainerHeader cs us nb sub => exact execM2ContainerHeader_readerKept cs us nb sub s
  | m2ChunkRecord bs chunk cont => exact execM2ChunkRecord_readerKept bs chunk cont s
  | m2Lit c => exact fillScratch_readerKept c 1 s
  | m2Rpts lo v c => exact fillScratch_readerKept c (shortCount v) { s with m2d := _ }
  | m2Rptl lo v x c => exact fillScratch_readerKept c (longCount v x) { s with m2d := _ }
  | m2Sref d => exact (rfl : readerRegs s = readerRegs s)
  | m2Lref h lo => exact (rfl : readerRegs s = readerRegs s)
  | m2Aref lo => exact (rfl : readerRegs s = readerRegs s)
  | m2End => exact (rfl : readerRegs s = readerRegs s)
  | len2 => exact setupRun_readerKept 2 s
  | len3 => exact setupRun_readerKept 3 s
  | len4 => exact setupRun_readerKept 4 s
  | len5 => exact setupRun_readerKept 5 s
  | len6to13 x => exact setupRun_readerKept (midLength x) s
  | len14to269 x => exact setupRun_readerKept (byteLength x) s

/-- Settles O34, from what each instruction can do to the reader's registers. -/
theorem tokensSetNoFlags : Obligations.TokensSetNoFlags := by
  intro i s t h hStart hWord
  simpa [ReaderKept, readerRegs] using (exec_readerKept hStart hWord s).of_next h

/-! ## Reset, start and clear (10_state R31, R32, R44) -/

theorem step_of_host_turn {s : State} {a : HostAction} {r : List Turn} (h : s.turns = .host a :: r) :
    step s = hostAct a (withTurns r s) := by
  unfold step; rw [h]; rfl

/-- Settles O9: the state after reset, and `powerOn`, which takes the host registers from it. -/
theorem resetLeavesHostRegisters : Obligations.ResetLeavesHostRegisters := by
  refine ⟨⟨rfl, rfl, rfl, rfl, rfl⟩, fun s r h => ?_⟩
  exact ⟨powerOn (withTurns r s), step_of_host_turn h, rfl, rfl, rfl, rfl, rfl, rfl, rfl⟩

/-- Settles O10: the write of a command is `startCommand`, and the dispatch of a good command only moves the phase. -/
theorem commandStartClearsFramer : Obligations.CommandStartClearsFramer := by
  refine ⟨fun s c r h hBusy hIdle => ?_, fun s h hp => ?_⟩
  · obtain ⟨hBusy', -⟩ | ⟨-, hIdle', -⟩ | ⟨-, -, hIdle', -⟩ | ⟨-, -, hStart⟩ := writeCmd_cases c (withTurns r s)
    · exact absurd hBusy' hBusy
    · exact absurd hIdle' hIdle
    · exact absurd hIdle' hIdle
    · refine ⟨startCommand { withTurns r s with CMD := c }, (step_of_host_turn h).trans (congrArg _ hStart), ?_⟩
      simp [withTurns]
  · have hStep : step s = .next (dispatchCommand s) := by
      rw [step_of_no_turns h]
      unfold engineStep
      rw [hp]
    rw [hStep]
    refine ⟨fun hCmd => ?_, fun hCmd hMode => ?_, fun hCmd hMode => ?_⟩
    · simp [dispatchCommand, hCmd]
    · simp [dispatchCommand, hCmd, hMode]
    · simp [dispatchCommand, hCmd, hMode]

/-- Settles O12: in DONE and in ERROR the write of IDLE is the clear, and a waiting engine stays as it is. -/
theorem clearReturnsToIdle : Obligations.ClearReturnsToIdle := by
  refine ⟨fun s r h hState => ?_, fun s h hp => ?_⟩
  · obtain ⟨hBusy, -⟩ | ⟨hIdle, -⟩ | ⟨-, -, -, hClear⟩ | ⟨-, hIdle, -⟩ := writeCmd_cases .idle (withTurns r s)
    · obtain h' | h' := hState <;> exact absurd (h'.symm.trans hBusy) (by decide)
    · obtain h' | h' := hState <;> exact absurd (h'.symm.trans hIdle) (by decide)
    · exact ⟨clearEngine (withTurns r s), (step_of_host_turn h).trans (congrArg _ hClear), rfl⟩
    · exact absurd rfl hIdle
  · rw [step_of_no_turns h, engineStep_of_waiting hp]

end Sys2Proof.Registers
end

section
/-! The family 20_memory: what a step makes of the byte spaces and of the stream's cursor, how a field of bytes is read, and what a mode-3
token writes. -/

namespace Sys2Proof.Memory

open Sys2Proof.Machine Sys2Proof.Safety Sys2Proof.Scope Sys2Proof.Reading Sys2Proof.Invariants

/-! ## What a step makes of the byte spaces and the cursor of IN (20_memory R70, R71, R73) -/

/-- SCRATCH is written from `OPOS` up to the new `OPOS` and below 65536 only, and keeps its 65536 bytes. -/
def ScratchFrame (s t : State) : Prop :=
  (∀ x, x < s.m2d.OPOS.toNat ∨ t.m2d.OPOS.toNat ≤ x ∨ 65536 ≤ x → t.SCRATCH.get x = s.SCRATCH.get x) ∧
  (s.SCRATCH.len = 65536 → t.SCRATCH.len = 65536)

/-- `t` is `s` after a step that keeps the spaces canonical, moves `SP` on by `n` bytes unless it ends in an error or
passes 64 bits, and writes SCRATCH at `OPOS` only. -/
def MemoryStep (n : Nat) (s t : State) : Prop :=
  (MemoryInv s → MemoryInv t) ∧
  (t.STATE ≠ .error → s.SP.toNat + n < 2 ^ 64 → t.SP.toNat = s.SP.toNat + n) ∧
  ScratchFrame s t

theorem scratchFrame_of_eq {s t : State} (h : t.SCRATCH = s.SCRATCH) : ScratchFrame s t := by
  simp [ScratchFrame, h]

/-- What `MemoryStep` compares with the state before the step: `SP`, `OPOS` and SCRATCH. -/
def cursors (s : State) : BitVec 64 × BitVec 17 × Space := (s.SP, s.m2d.OPOS, s.SCRATCH)

theorem cursors_eq_iff {s u : State} : cursors u = cursors s ↔ u.SP = s.SP ∧ u.m2d.OPOS = s.m2d.OPOS ∧ u.SCRATCH = s.SCRATCH := by
  simp [cursors]

/-- Work that leaves `SP` and SCRATCH alone and keeps the spaces canonical is such a step. -/
theorem memoryStep_of_kept {s t : State} (hMem : MemoryInv s → MemoryInv t) (hSp : t.SP = s.SP) (hScratch : t.SCRATCH = s.SCRATCH) :
    MemoryStep 0 s t :=
  ⟨hMem, fun _ _ => congrArg BitVec.toNat hSp, scratchFrame_of_eq hScratch⟩

theorem memoryStep_refl (s : State) : MemoryStep 0 s s := memoryStep_of_kept id rfl rfl

/-- Work before a step that leaves the cursors and SCRATCH alone is part of the step. -/
theorem MemoryStep.after {n : Nat} {s u t : State} (h : MemoryStep n u t) (hMem : MemoryInv s → MemoryInv u)
    (hKept : cursors u = cursors s) : MemoryStep n s t := by
  obtain ⟨hSp, hOpos, hScratch⟩ := cursors_eq_iff.mp hKept
  obtain ⟨hStep, hRest⟩ := h
  simp only [ScratchFrame, hSp, hOpos, hScratch] at hRest
  exact ⟨hStep ∘ hMem, hRest⟩

theorem memoryInv_advanceSp {n : Nat} {s : State} (h : MemoryInv s) : MemoryInv (advanceSp n s) := by simpa [MemoryInv] using h

/-- A step after which `SP` has moved past what was read. -/
theorem MemoryStep.after_advanceSp {n : Nat} {u t : State} (h : MemoryStep 0 (advanceSp n u) t) : MemoryStep n u t := by
  obtain ⟨hMem, hSp, hScratch⟩ := h
  refine ⟨hMem ∘ memoryInv_advanceSp, fun hErr hFits => ?_, ?_⟩
  · rw [hSp hErr (BitVec.isLt _), advanceSp_SP n u hFits, BitVec.toNat_ofNat, Nat.mod_eq_of_lt hFits]
    rfl
  · simpa [ScratchFrame] using hScratch

theorem memoryInv_out {s : State} {out : Space} (hOut : s.OUT.wf = true → out.wf = true) (h : MemoryInv s) :
    MemoryInv { s with OUT := out } := by
  obtain ⟨hIn, hO, hRest⟩ := h
  exact ⟨hIn, hOut hO, hRest⟩

theorem memoryInv_scratch {s : State} {scratch : Space} (hScratch : s.SCRATCH.wf = true → scratch.wf = true) (h : MemoryInv s) :
    MemoryInv { s with SCRATCH := scratch } := by
  obtain ⟨hIn, hOut, hSeg, hSub, hChunk, hS⟩ := h
  exact ⟨hIn, hOut, hSeg, hSub, hChunk, hScratch hS⟩

theorem memoryStep_raise (e : ErrorKind) (s : State) : MemoryStep 0 s (raise e s) :=
  ⟨memoryInv_out fun _ => ofList_wf _, fun h => absurd rfl h, scratchFrame_of_eq rfl⟩

theorem memoryStep_finish (s : State) : MemoryStep 0 s (finish s) :=
  memoryStep_of_kept (fun h => by simpa [MemoryInv] using h) (finish_SP s) (finish_SCRATCH s)

theorem memoryStep_nextRecord (s : State) : MemoryStep 0 s (nextRecord s) := by
  obtain ⟨-, h⟩ | ⟨-, h⟩ := nextRecord_cases s
  · rw [h]; exact memoryStep_of_kept id rfl rfl
  · rw [h]; exact memoryStep_finish s

/-! ## Mode 2: what is written to SCRATCH (43_mode2_decode R266, R272, R274, R275) -/

/-- Writing `k` bytes at `OPOS` that fit, `OPOS` then moved past them. -/
theorem memoryStep_scratch {s t : State} {k : Nat} (hFits : s.m2d.OPOS.toNat + k ≤ 65536)
    (hMem : MemoryInv s → MemoryInv t) (hSp : t.SP = s.SP) (hOpos : t.m2d.OPOS = s.m2d.OPOS + BitVec.ofNat 17 k)
    (hGet : ∀ x, x < s.m2d.OPOS.toNat ∨ s.m2d.OPOS.toNat + k ≤ x → t.SCRATCH.get x = s.SCRATCH.get x)
    (hLen : s.SCRATCH.len = 65536 → t.SCRATCH.len = 65536) : MemoryStep 0 s t := by
  refine ⟨hMem, fun _ _ => congrArg BitVec.toNat hSp, fun x hx => hGet x ?_, hLen⟩
  rw [hOpos, opos_add hFits] at hx
  omega

theorem memoryStep_fillScratch (c : Byte) (k : Nat) (s : State) : MemoryStep 0 s (fillScratch c k s) := by
  obtain ⟨-, h⟩ | ⟨hFits, h⟩ := fillScratch_cases c k s
  · rw [h]; exact memoryStep_raise .overflow s
  · rw [h]
    refine memoryStep_scratch hFits (memoryInv_scratch fun hs => setAll_wf hs _ _) rfl rfl (fun x hx => ?_) fun hs => ?_
    · exact get_setAll_outside _ _ _ _ (by simpa using hx)
    · refine (setAll_len_of_fits ?_).trans hs
      rwa [List.length_replicate, hs]

theorem memoryStep_repeatByte (lo : Byte) (br : BitVec 1) (count : Nat) (c : Byte) (s : State) :
    MemoryStep 0 s (repeatByte lo br count c s) := (memoryStep_fillScratch c count _).after id rfl

theorem memoryStep_setupRun (len : Nat) (s : State) : MemoryStep 0 s (setupRun len s) := by
  obtain ⟨-, h⟩ | ⟨-, -, -, h⟩ | ⟨-, -, hFits, h⟩ := setupRun_cases len s
  · rw [h]; exact (memoryStep_raise .badDistance _).after id rfl
  · rw [h]; exact (memoryStep_raise .overflow _).after id rfl
  · rw [h]
    refine memoryStep_scratch hFits (memoryInv_scratch fun hs => copyBack_wf hs _ _ _) rfl rfl (fun x hx => ?_) fun hs => ?_
    · exact get_copyBack_outside _ _ _ _ _ hx
    · refine (copyBack_len _ _ _ _ ?_).trans ?_
      · omega
      · omega

/-! ## Each instruction -/

/-- How many bytes of IN an instruction takes: a container header or a mode-3 record is read at `SP`, nothing else is (20_memory R71). -/
def streamBytes : Instr → Nat
  | .m3ContainerHeader _ _ _ _ _ => 20
  | .m3BlockRecord _ _ _ payload => 12 + payload.length
  | .m2ContainerHeader _ _ _ sub => 12 + sub.length
  | _ => 0

theorem streamBytes_eq_zero {i : Instr} (hHeader : i.ctx ≠ .container) (hRecord : i.ctx ≠ .m3Record) : streamBytes i = 0 := by
  cases i with
  | m3ContainerHeader => exact absurd rfl hHeader
  | m2ContainerHeader => exact absurd rfl hHeader
  | m3BlockRecord => exact absurd rfl hRecord
  | _ => rfl

theorem execM3ContainerHeader_memory (flag nb cs maxrec us : BitVec 32) (s : State) :
    Yields (MemoryStep 20 s) (execM3ContainerHeader flag nb cs maxrec us s) := by
  unfold execM3ContainerHeader
  extract_lets fr u
  have hRead : ∀ t, MemoryStep 0 u t → MemoryStep 20 s t := fun t h => h.after_advanceSp.after id rfl
  split
  · exact hRead _ (memoryStep_finish u)
  · exact hRead _ (memoryStep_refl u)

theorem execM3BlockRecord_memory (bs ubs bt : BitVec 32) (payload : List Byte) (s : State) :
    Yields (MemoryStep (12 + payload.length) s) (execM3BlockRecord bs ubs bt payload s) := by
  have hSeg : MemoryInv s → MemoryInv { s with SEG := Space.ofList payload } := fun ⟨hIn, hOut, _, hRest⟩ =>
    ⟨hIn, hOut, ofList_wf payload, hRest⟩
  unfold execM3BlockRecord
  extract_lets fr u
  have hRead : ∀ t, MemoryStep 0 u t → MemoryStep (12 + payload.length) s t := fun t h => h.after_advanceSp.after hSeg rfl
  split_ifs
  · exact hRead _ (memoryStep_raise .badHeader u)
  · exact hRead _ (memoryStep_raise .truncatedInput u)
  · exact hRead _ (memoryStep_of_kept id rfl rfl)
  · exact hRead _ ((memoryStep_nextRecord _).after (memoryInv_out fun h => setAll_wf h _ _) rfl)

theorem execM2ContainerHeader_memory (cs us nb : BitVec 32) (sub : List Byte) (s : State) :
    Yields (MemoryStep (12 + sub.length) s) (execM2ContainerHeader cs us nb sub s) := by
  unfold execM2ContainerHeader
  extract_lets fr u frLoaded loaded
  have hRead : ∀ t, MemoryStep 0 u t → MemoryStep (12 + sub.length) s t := fun t h => h.after_advanceSp.after id rfl
  have hLoad : ∀ t, MemoryStep 0 loaded t → MemoryStep (12 + sub.length) s t := fun t h =>
    hRead t (h.after (fun ⟨hIn, _, hSeg, _, hRest⟩ => ⟨hIn, zeros_wf _, hSeg, ofList_wf sub, hRest⟩) rfl)
  split_ifs
  · exact hRead _ (memoryStep_raise .badHeader u)
  · exact hLoad _ (memoryStep_raise .truncatedInput loaded)
  · exact hLoad _ (memoryStep_finish loaded)
  · exact hLoad _ (memoryStep_refl loaded)

theorem execM2ChunkRecord_memory (bs : BitVec 16) (chunk : List Byte) (cont : Option Byte) (s : State) :
    Yields (MemoryStep 0 s) (execM2ChunkRecord bs chunk cont s) := by
  unfold execM2ChunkRecord
  extract_lets fr u
  have hLoad : ∀ t, MemoryStep 0 u t → MemoryStep 0 s t := fun t h =>
    h.after (fun ⟨hIn, hOut, hSeg, hSub, _, hScratch⟩ => ⟨hIn, hOut, hSeg, hSub, ofList_wf chunk, hScratch⟩) rfl
  split_ifs
  · exact hLoad _ (memoryStep_raise .badHeader u)
  · exact hLoad _ (memoryStep_raise .truncatedInput u)
  · exact hLoad _ (memoryStep_refl u)

theorem execM2ChunkStart_memory (method : Byte) (g : Option Byte) (s : State) :
    Yields (MemoryStep 0 s) (execM2ChunkStart method g s) := by
  unfold execM2ChunkStart
  split
  · exact memoryStep_raise .unsupportedMethod s
  cases g with
  | none => exact memoryStep_raise .outOfData s
  | some v => exact memoryStep_of_kept id rfl rfl

theorem memoryStep_m3Emit (bs : List Byte) (used : Nat) (s : State) : MemoryStep 0 s (m3Emit bs used s) :=
  memoryStep_of_kept (memoryInv_out fun h => setAll_wf h _ _) rfl rfl

theorem execM3Lit_memory (n : Byte) (data : List Byte) (s : State) : Yields (MemoryStep 0 s) (execM3Lit n data s) := by
  unfold execM3Lit
  split
  · exact (memoryStep_raise .truncatedInput _).after id rfl
  · exact (memoryStep_m3Emit data data.length _).after id rfl

theorem execM3Ref_memory (a b : Byte) (c : Option Byte) (s : State) : Yields (MemoryStep 0 s) (execM3Ref a b c s) := by
  unfold execM3Ref
  extract_lets u copied
  have hCopy : ∀ t, MemoryStep 0 copied t → MemoryStep 0 s t := fun t h => h.after (memoryInv_out fun h => copyBack_wf h _ _ _) rfl
  split_ifs
  · exact (memoryStep_raise .badDistance u).after id rfl
  · trivial
  cases c with
  | none => exact hCopy _ (memoryStep_raise .truncatedInput copied)
  | some v => exact hCopy _ (memoryStep_m3Emit [v] 1 copied)

/-- What an instruction makes of the spaces and of `SP`. -/
theorem exec_memory (i : Instr) (s : State) : Yields (MemoryStep (streamBytes i) s) (exec i s) := by
  cases i with
  | m3Lit n data => exact execM3Lit_memory n data s
  | m3Ref a b c => exact execM3Ref_memory a b c s
  | m3ContainerHeader flag nb cs maxrec us => exact execM3ContainerHeader_memory flag nb cs maxrec us s
  | m3BlockRecord bs ubs bt payload => exact execM3BlockRecord_memory bs ubs bt payload s
  | m2ContainerHeader cs us nb sub => exact execM2ContainerHeader_memory cs us nb sub s
  | m2ChunkRecord bs chunk cont => exact execM2ChunkRecord_memory bs chunk cont s
  | m2ChunkStart method g => exact execM2ChunkStart_memory method g s
  | m2FlagWord w => exact memoryStep_of_kept id rfl rfl
  | m2End => exact memoryStep_of_kept id rfl rfl
  | m2Sref d => exact memoryStep_of_kept id rfl rfl
  | m2Lref h lo => exact memoryStep_of_kept id rfl rfl
  | m2Aref lo => exact memoryStep_of_kept id rfl rfl
  | m2Lit c => exact memoryStep_fillScratch c 1 s
  | m2Rpts lo v c => exact memoryStep_repeatByte lo 0 (shortCount v) c s
  | m2Rptl lo v x c => exact memoryStep_repeatByte lo 1 (longCount v x) c s
  | len2 => exact memoryStep_setupRun 2 s
  | len3 => exact memoryStep_setupRun 3 s
  | len4 => exact memoryStep_setupRun 4 s
  | len5 => exact memoryStep_setupRun 5 s
  | len6to13 x => exact memoryStep_setupRun (midLength x) s
  | len14to269 x => exact memoryStep_setupRun (byteLength x) s

/-- Settles O35: what an instruction makes of SCRATCH. -/
theorem scratchNeverOverrun : Obligations.ScratchNeverOverrun := by
  intro i s t h
  obtain ⟨-, -, hScratch⟩ := (exec_memory i s).of_next h
  exact hScratch

/-! ## Little-endian fields (20_memory R75) -/

/-- The number little-endian bytes stand for. -/
def littleNat : List Byte → Nat
  | [] => 0
  | b :: bs => b.toNat + 256 * littleNat bs

theorem littleNat_lt (bs : List Byte) : littleNat bs < 256 ^ bs.length := by
  induction bs with
  | nil => simp [littleNat]
  | cons b bs ih =>
    have := b.isLt
    rw [littleNat, List.length_cons, pow_succ]
    omega

theorem takeLittle_byteItems (k scale v : Nat) (bs : List Byte) :
    takeLittle k scale v (byteItems bs) =
      if k ≤ bs.length then .ok (v + scale * littleNat (bs.take k)) (byteItems (bs.drop k)) else .needByte := by
  induction k generalizing scale v bs with
  | zero => simp [takeLittle, littleNat]
  | succ k ih =>
    cases bs with
    | nil => simp [takeLittle, byteItems]
    | cons b bs =>
      simp only [takeLittle, byteItems_cons, takeByte_byte, bind_ok, ih, List.length_cons, Nat.add_le_add_iff_right,
        List.take_succ_cons, List.drop_succ_cons, littleNat]
      congr 2
      ring

theorem takeU32_byteItems (bs : List Byte) :
    takeU32 (byteItems bs) =
      if 4 ≤ bs.length then .ok (BitVec.ofNat 32 (littleNat (bs.take 4))) (byteItems (bs.drop 4)) else .needByte := by
  unfold takeU32
  rw [takeLittle_byteItems]
  split
  · simp
  · rfl

theorem takeU16_byteItems (bs : List Byte) :
    takeU16 (byteItems bs) =
      if 2 ≤ bs.length then .ok (BitVec.ofNat 16 (littleNat (bs.take 2))) (byteItems (bs.drop 2)) else .needByte := by
  unfold takeU16
  rw [takeLittle_byteItems]
  split
  · simp
  · rfl

/-! ## What a container header or a record is read from (30_encoding R120 to R123) -/

/-- The reader `f` asks for a byte that is not there when it is given fewer than `n`. -/
def NeedsBytes (n : Nat) (f : List Item → Take Instr) : Prop := ∀ bs : List Byte, bs.length < n → f (byteItems bs) = .needByte

theorem needsBytes_zero (f : List Item → Take Instr) : NeedsBytes 0 f := fun _ h => absurd h (Nat.not_lt_zero _)

theorem NeedsBytes.mono {m n : Nat} {f : List Item → Take Instr} (h : NeedsBytes n f) (hmn : m ≤ n) : NeedsBytes m f :=
  fun bs hbs => h bs (hbs.trans_le hmn)

theorem NeedsBytes.ite {n : Nat} {p : Prop} [Decidable p] {f g : List Item → Take Instr} (hf : NeedsBytes n f)
    (hg : NeedsBytes n g) : NeedsBytes n fun xs => if p then f xs else g xs := by
  by_cases h : p
  · simpa [h] using hf
  · simpa [h] using hg

theorem NeedsBytes.u32 {n : Nat} {g : BitVec 32 → List Item → Take Instr} (hg : ∀ v, NeedsBytes n (g v)) :
    NeedsBytes (n + 4) fun xs => (takeU32 xs).bind g := by
  intro bs hbs
  simp only [takeU32_byteItems]
  split
  · exact hg _ _ (by simp; omega)
  · rfl

theorem NeedsBytes.u16 {n : Nat} {g : BitVec 16 → List Item → Take Instr} (hg : ∀ v, NeedsBytes n (g v)) :
    NeedsBytes (n + 2) fun xs => (takeU16 xs).bind g := by
  intro bs hbs
  simp only [takeU16_byteItems]
  split
  · exact hg _ _ (by simp; omega)
  · rfl

theorem decodeM3Record_needsBytes : NeedsBytes 12 (decode .m3Record) :=
  .u32 fun _ => .u32 fun _ => .u32 fun _ => needsBytes_zero _

theorem decodeM2Chunk_needsBytes : NeedsBytes 2 (decode .m2Chunk) := .u16 fun _ => needsBytes_zero _

/-- The four fields after the first word of a mode-3 header, which says by its bit 31 that it is one. -/
theorem m3Header_needsBytes (flag : BitVec 32) : NeedsBytes 16 fun xs =>
    (takeU32 xs).bind fun nb r2 => (takeU32 r2).bind fun cs r3 => (takeU32 r3).bind fun maxrec r4 => (takeU32 r4).bind fun us r5 =>
      .ok (.m3ContainerHeader flag nb cs maxrec us) r5 :=
  .u32 fun _ => .u32 fun _ => .u32 fun _ => .u32 fun _ => needsBytes_zero _

theorem decodeContainer_needsBytes : NeedsBytes 12 (decode .container) :=
  .u32 fun flag => .ite ((m3Header_needsBytes flag).mono (by omega)) (.u32 fun _ => .u32 fun _ => needsBytes_zero _)

/-- The fourth byte is the top of a u32. -/
theorem msb_of_fourth_byte {bs : List Byte} (h : 4 ≤ bs.length) (hTop : 0x80 ≤ (bs.getD 3 0).toNat) :
    (BitVec.ofNat 32 (littleNat (bs.take 4))).msb = true := by
  have hLt : littleNat (bs.take 4) < 2 ^ 32 := by simpa [h] using littleNat_lt (bs.take 4)
  have hGe : 2 ^ 31 ≤ littleNat (bs.take 4) := by
    match bs with
    | _ :: _ :: _ :: _ :: _ =>
      simp only [List.getD_cons_succ, List.getD_cons_zero] at hTop
      simp only [List.take_succ_cons, List.take_zero, littleNat]
      omega
  rw [BitVec.msb_eq_decide, BitVec.toNat_ofNat, Nat.mod_eq_of_lt hLt]
  exact decide_eq_true hGe

/-- A header whose first word has bit 31 set is a mode-3 header: it needs all its 20 bytes. -/
theorem decodeContainer_needByte_of_flag {bs : List Byte} (hFlag : 0x80 ≤ (bs.getD 3 0).toNat) (hLen : bs.length < 20) :
    decode .container (byteItems bs) = .needByte := by
  by_cases h4 : 4 ≤ bs.length
  · have hMsb := msb_of_fourth_byte h4 hFlag
    simp only [decode, decodeContainer, takeU32_byteItems bs, if_pos h4, bind_ok, hMsb, if_true]
    exact m3Header_needsBytes _ _ (by simp; omega)
  · exact decodeContainer_needsBytes bs (by omega)

theorem runFetched_needByte {e : ErrorKind} {tk : Take Instr} (h : tk = .needByte) (s : State) :
    EndsInError (runFetched e tk s) e := by
  rw [h]; exact endsInError_raise e s

/-- Settles O25: a reader that needs more bytes than are left asks for one, and that is `TruncatedInput`. -/
theorem shortHeadersTruncated : Obligations.ShortHeadersTruncated := by
  intro s hs
  rw [step_of_no_turns hs]
  unfold engineStep
  refine ⟨fun hp hLen => ?_, fun hp hFlag hLen => ?_, fun hp hLen => ?_, fun hp hLen => ?_⟩
  · rw [hp]
    exact runFetched_needByte (decodeContainer_needsBytes _ (by rw [slice_length]; omega)) s
  · rw [hp]
    refine runFetched_needByte ?_ s
    by_cases h4 : s.SP.toNat + 4 ≤ s.IN.len
    · refine decodeContainer_needByte_of_flag ?_ (by rw [slice_length]; omega)
      rwa [getD_slice (by omega)]
    · exact decodeContainer_needsBytes _ (by rw [slice_length]; omega)
  · rw [hp]
    exact runFetched_needByte (decodeM3Record_needsBytes _ (by rw [slice_length]; omega)) s
  · rw [hp]
    exact runFetched_needByte (decodeM2Chunk_needsBytes _ (by rw [slice_length]; omega)) s

/-! ## How far a record reaches (20_memory R71) -/

/-- What `f` reads after `n` bytes takes no more of IN than those and its own. -/
def Within (n : Nat) (f : List Item → Take Instr) : Prop :=
  ∀ (bs : List Byte) (i : Instr) (r : List Item), f (byteItems bs) = .ok i r → streamBytes i ≤ n + bs.length

theorem Within.u32 {n : Nat} {g : BitVec 32 → List Item → Take Instr} (hg : ∀ v, Within (n + 4) (g v)) :
    Within n fun xs => (takeU32 xs).bind g := by
  intro bs i r h
  simp only [takeU32_byteItems] at h
  split at h
  · have := hg _ _ _ _ h
    rw [List.length_drop] at this
    omega
  · cases h

theorem Within.ite {n : Nat} {p : Prop} [Decidable p] {f g : List Item → Take Instr} (hf : Within n f) (hg : Within n g) :
    Within n fun xs => if p then f xs else g xs := by
  by_cases h : p
  · simpa [h] using hf
  · simpa [h] using hg

/-- The rest of a record is a payload, cut at the end of the stream. -/
theorem within_payload {n : Nat} (k : Nat) {mk : List Byte → Instr} (h : ∀ payload, streamBytes (mk payload) = n + payload.length) :
    Within n fun xs => .ok (mk (takeUpTo k xs).1) (takeUpTo k xs).2 := by
  intro bs i r hi
  cases hi
  rw [h, takeUpTo_byteItems]
  simp

theorem within_m3Header (flag nb cs maxrec us : BitVec 32) : Within 20 fun xs => .ok (.m3ContainerHeader flag nb cs maxrec us) xs := by
  intro bs i r hi
  cases hi
  exact Nat.le_add_right _ _

theorem decodeContainer_within : Within 0 (decode .container) :=
  .u32 fun _ => .ite (.u32 fun _ => .u32 fun _ => .u32 fun _ => .u32 fun _ => within_m3Header _ _ _ _ _)
    (.u32 fun _ => .u32 fun _ => within_payload _ fun _ => rfl)

theorem decodeM3Record_within : Within 0 (decode .m3Record) :=
  .u32 fun _ => .u32 fun _ => .u32 fun _ => within_payload _ fun _ => rfl

/-! ## Each step of the engine -/

/-- A step of the engine keeps the spaces canonical and moves `SP` on by no more bytes than are left of IN. -/
def EngineMemory (s t : State) : Prop := ∃ n, n ≤ s.IN.len - s.SP.toNat ∧ MemoryStep n s t

theorem MemoryStep.engine {s t : State} (h : MemoryStep 0 s t) : EngineMemory s t := ⟨0, Nat.zero_le _, h⟩

theorem runFetched_memory {s : State} (e : ErrorKind) {tk : Take Instr}
    (h : ∀ i r, tk = .ok i r → streamBytes i ≤ s.IN.len - s.SP.toNat) : Yields (EngineMemory s) (runFetched e tk s) := by
  cases tk with
  | ok i r => exact (exec_memory i s).imp fun _ ht => ⟨_, h i r rfl, ht⟩
  | needByte => exact (memoryStep_raise e s).engine
  | needFlag => trivial
  | wrongKind => trivial

/-- A read at `SP`. -/
theorem runFetched_stream_memory {s : State} (e : ErrorKind) {c : Ctx} (h : Within 0 (decode c)) :
    Yields (EngineMemory s) (runFetched e (decode c (streamItems s)) s) := by
  refine runFetched_memory e fun i r hi => (h _ i r hi).trans ?_
  rw [slice_length]
  omega

theorem streamBytes_of_decode {c : Ctx} (hHeader : c ≠ .container) (hRecord : c ≠ .m3Record) {xs r : List Item} {i : Instr}
    (h : decode c xs = .ok i r) : streamBytes i = 0 := by
  obtain ⟨rfl, -⟩ := decode_readAt c xs i r h
  exact streamBytes_eq_zero hHeader hRecord

/-- A read of SEG, SUB or CHUNK. -/
theorem runFetched_unit_memory (s : State) (e : ErrorKind) {c : Ctx} (hHeader : c ≠ .container) (hRecord : c ≠ .m3Record)
    (xs : List Item) : Yields (EngineMemory s) (runFetched e (decode c xs) s) :=
  runFetched_memory e fun _ _ hi => by rw [streamBytes_of_decode hHeader hRecord hi]; exact Nat.zero_le _

theorem m3TokenStep_memory (s : State) : Yields (EngineMemory s) (m3TokenStep s) := by
  unfold m3TokenStep
  split
  · exact (memoryStep_nextRecord s).engine
  · exact runFetched_unit_memory s _ (by simp) (by simp) _

theorem readFlag_memory (s : State) : Yields (EngineMemory s) (readFlag s) := by
  unfold readFlag
  split
  · exact runFetched_unit_memory s _ (by simp) (by simp) _
  · exact (memoryStep_of_kept id rfl rfl).engine

theorem readByte_memory (s : State) : Yields (EngineMemory s) (readByte s) := by
  unfold readByte
  split
  · exact (memoryStep_raise .outOfData s).engine
  · exact (memoryStep_of_kept id rfl rfl).engine

theorem m2ReadStep_memory (s : State) {c : Ctx} (hHeader : c ≠ .container) (hRecord : c ≠ .m3Record) :
    Yields (EngineMemory s) (m2ReadStep c s) := by
  unfold m2ReadStep
  split
  next i r hi =>
    have h := exec_memory i { s with m2d := { s.m2d with tok := [] } }
    rw [streamBytes_of_decode hHeader hRecord hi] at h
    exact h.imp fun _ ht => (ht.after id rfl).engine
  · exact readFlag_memory s
  · exact readByte_memory s
  · trivial

theorem stopTest_memory (s : State) : MemoryStep 0 s (stopTest s) := by
  unfold stopTest
  split
  · exact memoryStep_finish s
  split
  · exact memoryStep_finish s
  split_ifs
  · exact (memoryStep_finish _).after id rfl
  · exact memoryStep_of_kept id rfl rfl
  · exact (memoryStep_finish _).after id rfl

theorem copyOut_memory (s : State) : MemoryStep 0 s (copyOut s) := by
  unfold copyOut
  split
  · exact memoryStep_raise .overflow s
  · exact (stopTest_memory _).after (memoryInv_out fun h => setAll_wf h _ _) rfl

theorem m3WriteHeader_memory (s : State) : MemoryStep 0 s (m3WriteHeader s) := by
  dsimp only [m3WriteHeader]
  split
  · exact memoryStep_raise .segmentTooLarge s
  · exact memoryStep_of_kept (memoryInv_out fun _ => ofList_wf _) rfl rfl

theorem m3SplitStep_memory (s : State) : MemoryStep 0 s (m3SplitStep s) := by
  dsimp only [m3SplitStep]
  split
  · split
    · exact memoryStep_of_kept id rfl rfl
    split
    · exact memoryStep_of_kept id rfl rfl
    split
    · exact memoryStep_of_kept id rfl rfl
    · exact memoryStep_of_kept id rfl rfl
  · exact m3WriteHeader_memory s

theorem m3ScanStep_memory (s : State) : MemoryStep 0 s (m3ScanStep s) := by
  dsimp only [m3ScanStep]
  split
  · exact memoryStep_of_kept id rfl rfl
  · exact memoryStep_of_kept id rfl rfl

theorem m3WriteStep_memory (s : State) : MemoryStep 0 s (m3WriteStep s) := by
  dsimp only [m3WriteStep]
  split
  · exact memoryStep_finish s
  split
  · exact memoryStep_of_kept (memoryInv_out fun h => setAll_wf h _ _) rfl rfl
  · exact (memoryStep_finish _).after (memoryInv_out fun h => setAll_wf h _ _) rfl

theorem m2KeepChunk_memory (S z : List Byte) (s : State) : MemoryStep 0 s (m2KeepChunk S z s) := by
  unfold m2KeepChunk
  split
  · exact memoryStep_raise .segmentTooLarge s
  · exact memoryStep_of_kept id rfl rfl

theorem m2WriteContainer_memory (s : State) : MemoryStep 0 s (m2WriteContainer s) := by
  dsimp only [m2WriteContainer]
  split
  · exact memoryStep_raise .segmentTooLarge s
  · exact (memoryStep_finish _).after (memoryInv_out fun _ => ofList_wf _) rfl

theorem m2SplitStep_memory (s : State) : MemoryStep 0 s (m2SplitStep s) := by
  dsimp only [m2SplitStep]
  split
  · split
    · exact (memoryStep_raise .segmentTooLarge _).after id rfl
    split
    · exact memoryStep_of_kept id rfl rfl
    split
    · exact (m2KeepChunk_memory _ _ _).after id rfl
    · exact memoryStep_of_kept id rfl rfl
  · exact m2WriteContainer_memory s

theorem m2ScanStep_memory (s : State) : MemoryStep 0 s (m2ScanStep s) := by
  dsimp only [m2ScanStep]
  split
  · exact memoryStep_of_kept id rfl rfl
  · exact (m2KeepChunk_memory _ _ _).after id rfl

theorem dispatchCommand_memory (s : State) : MemoryStep 0 s (dispatchCommand s) := by
  unfold dispatchCommand
  split
  · exact memoryStep_of_kept id rfl rfl
  · exact memoryStep_of_kept id rfl rfl
  · split_ifs
    · exact memoryStep_of_kept id rfl rfl
    · exact memoryStep_of_kept id rfl rfl
    · exact memoryStep_raise .badCommand s
  · exact memoryStep_raise .badCommand s

/-- What a step of the engine makes of the spaces and of `SP`. -/
theorem engineStep_memory (s : State) : Yields (EngineMemory s) (engineStep s) := by
  unfold engineStep
  cases s.phase with
  | waiting => exact (memoryStep_refl s).engine
  | dispatch => exact (dispatchCommand_memory s).engine
  | header => exact runFetched_stream_memory _ decodeContainer_within
  | m3Record => exact runFetched_stream_memory _ decodeM3Record_within
  | m3Token => exact m3TokenStep_memory s
  | m2Chunk => exact runFetched_unit_memory s _ (by simp) (by simp) _
  | m2Start => exact runFetched_unit_memory s _ (by simp) (by simp) _
  | m2Token => exact m2ReadStep_memory s (by simp) (by simp)
  | m2Length => exact m2ReadStep_memory s (by simp) (by simp)
  | m2CopyOut => exact (copyOut_memory s).engine
  | m3Split => exact (m3SplitStep_memory s).engine
  | m3Scan => exact (m3ScanStep_memory s).engine
  | m3Write => exact (m3WriteStep_memory s).engine
  | m2Split => exact (m2SplitStep_memory s).engine
  | m2Scan => exact (m2ScanStep_memory s).engine

/-- No action of the host breaks the canonical form. -/
theorem hostAct_memoryInv {a : HostAction} {s t : State} (hs : MemoryInv s) (h : hostAct a s = .next t) : MemoryInv t := by
  obtain ⟨hIn, hOut, hSeg, hSub, hChunk, hScratch⟩ := hs
  obtain ⟨_, _, _, _, hInput, rfl⟩ | ⟨-, rfl⟩ | ⟨c, rfl⟩ | rfl := hostAct_cases h
  · exact ⟨hInput hIn, hOut, hSeg, hSub, hChunk, hScratch⟩
  · exact ⟨hIn, hOut, hSeg, hSub, hChunk, hScratch⟩
  · exact ⟨hIn, zeros_wf 0, zeros_wf 0, zeros_wf 0, zeros_wf 0, hScratch⟩
  · exact ⟨ofList_wf _, ofList_wf _, zeros_wf 0, zeros_wf 0, zeros_wf 0, zeros_wf _⟩

/-- Settles O38: a step of the engine writes spaces by operations that keep the canonical form, and so does the host. -/
theorem memoryStaysCanonical : Obligations.MemoryStaysCanonical := by
  intro s t hs h
  obtain ⟨r, hEngine | ⟨a, hHost⟩⟩ := step_cases h
  · obtain ⟨n, -, hMem, -⟩ := (engineStep_memory _).of_next hEngine
    exact hMem hs
  · exact hostAct_memoryInv (s := withTurns r s) hs hHost

/-- Settles O45: what a step reads at `SP` is in the stream, and `SP` moves past it. -/
theorem streamPositionAdvances : Obligations.StreamPositionAdvances := by
  intro s t hs hLen hLe _ h hErr
  rw [step_of_no_turns hs] at h
  obtain ⟨n, hn, -, hSp, -⟩ := (engineStep_memory s).of_next h
  have := hSp hErr (by omega)
  omega

/-! ## The bits of a flag word (20_memory R76) -/

theorem decode_m2FlagWord_bytes (lo hi : Byte) : decode .m2FlagWord (byteItems [lo, hi]) = .ok (.m2FlagWord (hi ++ lo)) [] := by
  have hWord : BitVec.ofNat 16 (littleNat [lo, hi]) = hi ++ lo := by
    apply BitVec.eq_of_toNat_eq
    rw [BitVec.toNat_append, ← Nat.shiftLeft_add_eq_or_of_lt lo.isLt, Nat.shiftLeft_eq, BitVec.toNat_ofNat]
    have := lo.isLt
    have := hi.isLt
    simp only [littleNat]
    omega
  rw [← hWord, decode, decodeM2FlagWord, takeU16_byteItems]
  rfl

theorem iterate_takeFlagBit_FW (k : Nat) (r : M2DecRegs) : (takeFlagBit^[k] r).FW = r.FW >>> k := by
  induction k with
  | zero => simp
  | succ k ih => rw [Function.iterate_succ_apply', takeFlagBit_FW, ih, BitVec.shiftRight_add]

theorem iterate_takeFlagBit_NBITS {k : Nat} {r : M2DecRegs} (h : k ≤ r.NBITS.toNat) :
    (takeFlagBit^[k] r).NBITS.toNat = r.NBITS.toNat - k := by
  induction k with
  | zero => rfl
  | succ k ih =>
    have := ih (by omega)
    rw [Function.iterate_succ_apply', takeFlagBit_NBITS]
    bv_omega

/-- Settles O8: the word's low byte is the first, and the `k`-th bit taken is bit `k` of the word. -/
theorem flagBitsLeastSignificantFirst : Obligations.FlagBitsLeastSignificantFirst := by
  intro lo hi r k hk
  refine ⟨hi ++ lo, ⟨[], decode_m2FlagWord_bytes lo hi⟩, ?_, ?_⟩
  · rw [iterate_takeFlagBit_FW, loadFlagWord_FW, BitVec.getLsbD_ushiftRight]
    exact BitVec.getLsbD_append
  · exact iterate_takeFlagBit_NBITS (r := loadFlagWord _ r) hk.le

/-! ## What a mode-3 token writes (41_mode3_decode R203 to R206) -/

theorem execM3Lit_next {n : Byte} {data : List Byte} {s t : State} (h : execM3Lit n data s = .next t) (hErr : t.STATE ≠ .error) :
    t = m3Emit data data.length (m3ControlPair 0 n s) := by
  unfold execM3Lit at h
  split at h
  · cases h; exact absurd rfl hErr
  · cases h; rfl

theorem execM3Ref_next {a b : Byte} {c : Option Byte} {s t : State} (h : execM3Ref a b c s = .next t) (hErr : t.STATE ≠ .error) :
    m3Distance b ≤ s.m3d.OP ∧
      ∃ v, c = some v ∧ t = m3Emit [v] 1 (m3Copy (m3Distance b) a.toNat (m3ControlPair a b s)) := by
  unfold execM3Ref at h
  split_ifs at h with hDist _
  · cases h; exact absurd rfl hErr
  · cases c with
    | none => cases h; exact absurd rfl hErr
    | some v => cases h; exact ⟨not_lt.mp hDist, v, rfl, rfl⟩

/-- Settles O36: the bytes are written one after the other from the write position on. -/
theorem mode3TokensWriteAtCursor : Obligations.Mode3TokensWriteAtCursor := by
  intro i s t hc h hErr
  cases i with
  | m3Lit n data =>
    obtain rfl := execM3Lit_next h hErr
    refine ⟨Nat.le_add_right _ _, fun x hx => ?_⟩
    simp only [m3Emit_m3d, m3ControlPair_m3d] at hx
    exact get_setAll_outside _ _ _ _ (by simp only [m3ControlPair_m3d]; omega)
  | m3Ref a b c =>
    obtain ⟨-, v, rfl, rfl⟩ := execM3Ref_next h hErr
    refine ⟨by simp; omega, fun x hx => ?_⟩
    simp only [m3Emit_m3d, m3Copy_m3d, m3ControlPair_m3d, List.length_singleton] at hx
    refine (get_setAll_outside _ _ _ _ ?_).trans (get_copyBack_outside _ _ _ _ _ ?_)
    · simp only [m3Copy_m3d, m3ControlPair_m3d, List.length_singleton]; omega
    · simp only [m3ControlPair_m3d]; omega
  | _ => cases hc

/-- Two canonical spaces that read the same from `b` on. -/
structure AgreeFrom (b : Nat) (m₁ m₂ : Space) : Prop where
  wf₁ : m₁.wf = true
  wf₂ : m₂.wf = true
  get : ∀ x, b ≤ x → m₁.get x = m₂.get x

theorem AgreeFrom.set {b : Nat} {m₁ m₂ : Space} (h : AgreeFrom b m₁ m₂) (a : Nat) (v : Byte) :
    AgreeFrom b (m₁.set a v) (m₂.set a v) := by
  refine ⟨set_wf h.wf₁ a v, set_wf h.wf₂ a v, fun x hx => ?_⟩
  by_cases hxa : x = a
  · rw [hxa, get_set_same h.wf₁, get_set_same h.wf₂]
  · rw [get_set_other _ _ hxa, get_set_other _ _ hxa, h.get x hx]

theorem AgreeFrom.setAll {b : Nat} {m₁ m₂ : Space} (h : AgreeFrom b m₁ m₂) (a : Nat) (bs : List Byte) :
    AgreeFrom b (m₁.setAll a bs) (m₂.setAll a bs) := by
  induction bs generalizing m₁ m₂ a with
  | nil => exact h
  | cons v bs ih => exact ih (h.set a v) (a + 1)

/-- A copy whose distance stays behind `b` reads nothing before `b`. -/
theorem AgreeFrom.copyBack {b d pos : Nat} {m₁ m₂ : Space} (h : AgreeFrom b m₁ m₂) (k : Nat) (hd : b + d ≤ pos) :
    AgreeFrom b (copyBack d k pos m₁) (copyBack d k pos m₂) := by
  induction k generalizing m₁ m₂ pos with
  | zero => exact h
  | succ k ih =>
    simp only [Machine.copyBack, h.get (pos - d) (by omega)]
    exact ih (h.set pos _) (by omega)

/-- Settles O37: a reference reaches back no further than the segment's output, so both copies read the same bytes. -/
theorem noCrossSegmentReference : Obligations.NoCrossSegmentReference := by
  intro i s₁ s₂ t₁ t₂ hc hRegs _ hWf₁ hWf₂ hGet h₁ h₂ hErr₁ hErr₂
  have hAgree : AgreeFrom s₁.m3d.BASE s₁.OUT s₂.OUT := ⟨hWf₁, hWf₂, hGet⟩
  cases i with
  | m3Lit n data =>
    obtain rfl := execM3Lit_next h₁ hErr₁
    obtain rfl := execM3Lit_next h₂ hErr₂
    simp only [m3Emit_m3d, m3Emit_OUT, m3ControlPair_m3d, m3ControlPair_OUT, ← hRegs, true_and]
    exact (hAgree.setAll _ data).get
  | m3Ref a b c =>
    obtain ⟨hDist, v, rfl, rfl⟩ := execM3Ref_next h₁ hErr₁
    obtain ⟨-, w, hw, rfl⟩ := execM3Ref_next (c := some v) h₂ hErr₂
    cases hw
    simp only [m3Emit_m3d, m3Emit_OUT, m3Copy_m3d, m3Copy_OUT, m3ControlPair_m3d, m3ControlPair_OUT, ← hRegs, true_and]
    exact ((hAgree.copyBack _ (by omega)).setAll _ [v]).get
  | _ => cases hc

end Sys2Proof.Memory
end

section
/-! The family 30_encoding: the decoder and the encoder are inverse to each other, the length codes, and what the distance and repeat tokens
of mode 2 do. -/

namespace Sys2Proof.Encoding

open Sys2Proof.Machine Sys2Proof.Safety Sys2Proof.Laws Sys2Proof.Reading

/-! ## Fields are read back as they were written (30_encoding R107, 20_memory R75) -/

@[simp] theorem byteItems_append (bs cs : List Byte) : byteItems (bs ++ cs) = byteItems bs ++ byteItems cs := List.map_append

@[simp] theorem takeBits_toNat {k : Nat} (v : BitVec k) (r : List Item) : takeBits k 0 (flagBits k v.toNat ++ r) = .ok v.toNat r := by
  simp [takeBits_flagBits, Nat.mod_eq_of_lt v.isLt]

theorem takeLittle_littleBytes (k scale v n : Nat) (r : List Item) :
    takeLittle k scale v (byteItems (littleBytes k n) ++ r) = .ok (v + scale * (n % 256 ^ k)) r := by
  induction k generalizing scale v n with
  | zero => simp [takeLittle, littleBytes, byteItems, Nat.mod_one]
  | succ k ih =>
    simp only [littleBytes, byteItems_cons, List.cons_append, takeLittle, takeByte_byte, bind_ok, ih, BitVec.toNat_ofNat]
    have hSplit : n % 256 ^ (k + 1) = n % 256 + 256 * (n / 256 % 256 ^ k) := by rw [pow_succ', Nat.mod_mul]
    rw [hSplit]
    congr 1
    ring

@[simp] theorem takeU16_u16le (v : BitVec 16) (r : List Item) : takeU16 (byteItems (u16le v) ++ r) = .ok v r := by
  rw [takeU16, u16le, takeLittle_littleBytes, Nat.mod_eq_of_lt (b := 256 ^ 2) v.isLt]
  simp

@[simp] theorem takeU32_u32le (v : BitVec 32) (r : List Item) : takeU32 (byteItems (u32le v) ++ r) = .ok v r := by
  rw [takeU32, u32le, takeLittle_littleBytes, Nat.mod_eq_of_lt (b := 256 ^ 4) v.isLt]
  simp

theorem takeUpTo_of_length {n : Nat} {bs : List Byte} (h : bs.length = n) : takeUpTo n (byteItems bs) = (bs, []) := by
  rw [takeUpTo_byteItems, ← h, List.take_length, List.drop_length]
  rfl

theorem takeUpTo_append_of_length {n : Nat} {bs cs : List Byte} (h : bs.length = n) :
    takeUpTo n (byteItems bs ++ byteItems cs) = (bs, byteItems cs) := by
  rw [← byteItems_append, takeUpTo_byteItems, List.take_left' h, List.drop_left' h]

@[simp] theorem takeMaybe_toList (o : Option Byte) : takeMaybe (byteItems o.toList) = (o, []) := by
  cases o with
  | none => rfl
  | some v => rfl

/-! ## Decoding what the encoder writes

A mode-2 token and a length code end by themselves: they are read back with any items after them. The byte-aligned instructions of variable
length are read to the end of their space. -/

/-- The byte that tells a repeat from M2_AREF and M2_END is 1 or 2 (R112, R113, R115). -/
theorem repeatMark_iff (lo : Byte) : (lo == 1 || lo == 2) = true ↔ ¬ 2 < lo.toNat ∧ lo ≠ 0 := by
  simp only [Bool.or_eq_true, beq_iff_eq]
  bv_omega

/-- After `1,1,0,0,0,0,0` the byte decides (R112, R113, R115). -/
theorem decodeM2Token_farFlags (lo : Byte) (xs : List Item) : decodeM2Token (farFlags ++ .byte lo :: xs) =
    if 2 < lo.toNat then .ok (.m2Aref lo) xs else if lo = 0 then .ok .m2End xs else decodeRepeat lo xs := rfl

theorem decodeM2Token_repeat {lo : Byte} (h : (lo == 1 || lo == 2) = true) (xs : List Item) :
    decodeM2Token (farFlags ++ .byte lo :: xs) = decodeRepeat lo xs := by
  obtain ⟨hLe, hNe⟩ := (repeatMark_iff lo).mp h
  rw [decodeM2Token_farFlags, if_neg hLe, if_neg hNe]

theorem decodeM2Token_encode {i : Instr} (hCtx : i.ctx = .m2Token) (hWf : WellFormed i = true) (r : List Item) :
    decodeM2Token (encode i ++ r) = .ok i r := by
  cases i with
  | m2Lit c => rfl
  | m2Sref d => rfl
  | m2Lref h lo =>
    have hNe : h.toNat ≠ 0 := by simpa [WellFormed, ← BitVec.toNat_inj] using hWf
    simp [encode, decodeM2Token, hNe]
  | m2Aref lo => exact (decodeM2Token_farFlags lo r).trans (if_pos (of_decide_eq_true hWf))
  | m2End => rfl
  | m2Rpts lo v c =>
    simp [encode, decodeM2Token_repeat hWf, decodeRepeat]
  | m2Rptl lo v x c =>
    simp [encode, decodeM2Token_repeat hWf, decodeRepeat]
  | _ => cases hCtx

theorem decodeM2Length_encode {i : Instr} (hCtx : i.ctx = .m2Length) (r : List Item) :
    decodeM2Length (encode i ++ r) = .ok i r := by
  cases i with
  | len2 => rfl
  | len3 => rfl
  | len4 => rfl
  | len5 => rfl
  | len6to13 x =>
    have hFive : decodeM2Length (flagBits 5 1 ++ (flagBits 3 x.toNat ++ r)) =
        (takeBits 3 0 (flagBits 3 x.toNat ++ r)).bind fun y r' => .ok (.len6to13 (BitVec.ofNat 3 y)) r' := rfl
    simp [encode, hFive]
  | len14to269 x => rfl
  | _ => cases hCtx

/-- Settles O1, by the instruction. -/
theorem decodeInvertsEncode : Obligations.DecodeInvertsEncode := by
  intro i hWf
  have hToken (hCtx : i.ctx = .m2Token) : decode i.ctx (encode i) = .ok i [] := by
    simpa [hCtx, decode] using decodeM2Token_encode hCtx hWf []
  have hLength (hCtx : i.ctx = .m2Length) : decode i.ctx (encode i) = .ok i [] := by
    simpa [hCtx, decode] using decodeM2Length_encode hCtx []
  cases i with
  | m3Lit n data =>
    have hLen : data.length = n.toNat := by simpa [WellFormed] using hWf
    simp [Instr.ctx, encode, decode, decodeM3Token, byteItems_cons, takeUpTo_of_length hLen]
  | m3Ref a b c =>
    obtain ⟨hNe, -⟩ : a ≠ 0#8 ∧ c.isSome = true := by simpa [WellFormed] using hWf
    simp [Instr.ctx, encode, decode, decodeM3Token, byteItems_cons, hNe]
  | m2ChunkStart method g => simp [Instr.ctx, encode, decode, decodeM2Start, byteItems_cons]
  | m2FlagWord w =>
    have hWord : takeU16 (byteItems (u16le w)) = .ok w [] := by simpa using takeU16_u16le w []
    simp [Instr.ctx, encode, decode, decodeM2FlagWord, hWord]
  | m3ContainerHeader flag nb cs maxrec us =>
    have hFlag : flag.msb = true := hWf
    have hLast : takeU32 (byteItems (u32le us)) = .ok us [] := by simpa using takeU32_u32le us []
    simp [Instr.ctx, encode, decode, decodeContainer, hFlag, hLast]
  | m3BlockRecord bs ubs bt payload =>
    obtain ⟨-, hLen⟩ : 4 ≤ bs.toNat ∧ payload.length = bs.toNat - 4 := by simpa [WellFormed] using hWf
    simp [Instr.ctx, encode, decode, decodeM3Record, takeUpTo_of_length hLen]
  | m2ContainerHeader cs us nb sub =>
    obtain ⟨hFlag, -, hLen⟩ : cs.msb = false ∧ 8 ≤ cs.toNat ∧ sub.length = cs.toNat - 8 := by simpa [WellFormed] using hWf
    simp [Instr.ctx, encode, decode, decodeContainer, hFlag, takeUpTo_of_length hLen]
  | m2ChunkRecord bs chunk cont =>
    obtain ⟨-, hLen⟩ : 2 ≤ bs.toNat ∧ chunk.length = bs.toNat - 2 := by simpa [WellFormed] using hWf
    simp [Instr.ctx, encode, decode, decodeM2Chunk, takeUpTo_append_of_length hLen]
  | m2Lit _ | m2Sref _ | m2Lref _ _ | m2Aref _ | m2End | m2Rpts _ _ _ | m2Rptl _ _ _ _ => exact hToken rfl
  | len2 | len3 | len4 | len5 | len6to13 _ | len14to269 _ => exact hLength rfl

/-- Settles O3: each word is what the encoder writes for its instruction. -/
theorem specWordsDecode : Obligations.SpecWordsDecode :=
  ⟨decodeInvertsEncode (.m3Lit 3 [0x61, 0x62, 0x63]) rfl, decodeInvertsEncode (.m3Ref 2 1 (some 0x64)) rfl,
    decodeInvertsEncode (.m2Lit 0x71) rfl, decodeInvertsEncode (.m2Lref 1 0x2C) rfl, decodeInvertsEncode (.len6to13 3) rfl,
    decodeInvertsEncode (.m3BlockRecord 5 1 0 [0x41]) rfl,
    decodeInvertsEncode (.m2ContainerHeader 15 1 1 [6, 0, 0, 6, 0x71, 0, 0]) rfl⟩

/-! ## Encoding what the decoder reads

What a reader takes from a stream is what stood there: once for each field, then for the readers made of fields. -/

/-- What `t` takes from the stream is the writing of its answer. -/
def Inverts {α : Type} (write : α → List Item) (t : List Item → Take α) : Prop :=
  ∀ xs a r, t xs = .ok a r → write a ++ r = xs

theorem takeFlag_inverts : Inverts (fun b => [.flag b]) takeFlag := by
  intro xs b r h
  match xs with
  | .flag _ :: _ => cases h; rfl

theorem takeByte_inverts : Inverts (fun v => [.byte v]) takeByte := by
  intro xs v r h
  match xs with
  | .byte _ :: _ => cases h; rfl

/-- The `k` bits read are the low bits of the answer, and what was read before stands above them. -/
theorem takeBits_eq_ok {k v w : Nat} {xs r : List Item} (h : takeBits k v xs = .ok w r) :
    w / 2 ^ k = v ∧ flagBits k w ++ r = xs := by
  induction k generalizing v xs with
  | zero => cases h; simp [flagBits]
  | succ k ih =>
    obtain ⟨b, ys, hFlag, hBits⟩ := bind_eq_ok.mp h
    obtain ⟨hAbove, hRest⟩ := ih hBits
    have hTop : w.testBit k = b := by
      rw [Nat.testBit_eq_decide_div_mod_eq, hAbove]
      cases b <;> simp
    refine ⟨?_, ?_⟩
    · rw [pow_succ, ← Nat.div_div_eq_div_mul, hAbove]
      have := b.toNat_lt
      omega
    · rw [flagBits, List.cons_append, hRest, hTop]
      exact takeFlag_inverts _ _ _ hFlag

/-- The bytes read are the little-endian bytes of a number, added with the weight `scale` to what was read before. -/
theorem takeLittle_eq_ok {k scale v w : Nat} {xs r : List Item} (h : takeLittle k scale v xs = .ok w r) :
    ∃ n < 256 ^ k, w = v + scale * n ∧ byteItems (littleBytes k n) ++ r = xs := by
  induction k generalizing scale v xs with
  | zero => cases h; exact ⟨0, by simp [littleBytes, byteItems]⟩
  | succ k ih =>
    obtain ⟨b, ys, hByte, hLittle⟩ := bind_eq_ok.mp h
    obtain ⟨n, hn, rfl, hRest⟩ := ih hLittle
    have hb := b.isLt
    have hLow : BitVec.ofNat 8 (b.toNat + 256 * n) = b := BitVec.eq_of_toNat_eq (by rw [BitVec.toNat_ofNat]; omega)
    have hHigh : (b.toNat + 256 * n) / 256 = n := by omega
    refine ⟨b.toNat + 256 * n, ?_, ?_, ?_⟩
    · rw [pow_succ]; omega
    · ring
    · rw [littleBytes, hLow, hHigh, byteItems_cons, List.cons_append, hRest]
      exact takeByte_inverts _ _ _ hByte

theorem takeU16_inverts : Inverts (fun v => byteItems (u16le v)) takeU16 := by
  intro xs v r h
  obtain ⟨w, ys, hLittle, hv⟩ := bind_eq_ok.mp h
  cases hv
  obtain ⟨n, hn, rfl, hRest⟩ := takeLittle_eq_ok hLittle
  have hNat : (BitVec.ofNat 16 n).toNat = n := Nat.mod_eq_of_lt hn
  simpa only [u16le, zero_add, one_mul, hNat] using hRest

theorem takeU32_inverts : Inverts (fun v => byteItems (u32le v)) takeU32 := by
  intro xs v r h
  obtain ⟨w, ys, hLittle, hv⟩ := bind_eq_ok.mp h
  cases hv
  obtain ⟨n, hn, rfl, hRest⟩ := takeLittle_eq_ok hLittle
  have hNat : (BitVec.ofNat 32 n).toNat = n := Nat.mod_eq_of_lt hn
  simpa only [u32le, zero_add, one_mul, hNat] using hRest

@[simp] theorem takeUpTo_split (n : Nat) (xs : List Item) : byteItems (takeUpTo n xs).1 ++ (takeUpTo n xs).2 = xs := by
  induction n generalizing xs with
  | zero => rfl
  | succ n ih =>
    match xs with
    | [] => rfl
    | .flag b :: r => rfl
    | .byte v :: r => exact congrArg (Item.byte v :: ·) (ih r)

@[simp] theorem takeMaybe_split (xs : List Item) : byteItems (takeMaybe xs).1.toList ++ (takeMaybe xs).2 = xs := by
  match xs with
  | [] => rfl
  | .flag b :: r => rfl
  | .byte v :: r => rfl

/-- What `f` reads after the items `p` is, with them, the encoding of its answer, and a bit-packed answer is well-formed (R118). -/
def Reencodes (p : List Item) (f : List Item → Take Instr) : Prop :=
  ∀ xs i r, f xs = .ok i r → encode i ++ r = p ++ xs ∧ (bitPacked i.ctx = true → WellFormed i = true)

theorem Reencodes.bind {α : Type} {p : List Item} {write : α → List Item} {t : List Item → Take α}
    {g : α → List Item → Take Instr} (ht : Inverts write t) (hg : ∀ a, Reencodes (p ++ write a) (g a)) :
    Reencodes p fun xs => (t xs).bind g := by
  intro xs i r h
  obtain ⟨a, ys, hRead, hRest⟩ := bind_eq_ok.mp h
  rw [← ht _ _ _ hRead, ← List.append_assoc]
  exact hg a ys i r hRest

theorem Reencodes.bits {k : Nat} {p : List Item} {g : Nat → List Item → Take Instr}
    (hg : ∀ v : BitVec k, Reencodes (p ++ flagBits k v.toNat) (g v.toNat)) : Reencodes p fun xs => (takeBits k 0 xs).bind g := by
  intro xs i r h
  obtain ⟨w, ys, hRead, hRest⟩ := bind_eq_ok.mp h
  obtain ⟨hAbove, hBits⟩ := takeBits_eq_ok hRead
  have hw : (BitVec.ofNat k w).toNat = w := by
    rw [BitVec.toNat_ofNat, Nat.mod_eq_of_lt ((Nat.div_eq_zero_iff_lt (Nat.two_pow_pos k)).mp hAbove)]
  have := hg (BitVec.ofNat k w)
  rw [hw] at this
  rw [← hBits, ← List.append_assoc]
  exact this ys i r hRest

theorem Reencodes.ite {p : List Item} {c : Prop} [Decidable c] {f g : List Item → Take Instr} (hf : c → Reencodes p f)
    (hg : ¬ c → Reencodes p g) : Reencodes p fun xs => if c then f xs else g xs := by
  by_cases h : c
  · simpa [h] using hf h
  · simpa [h] using hg h

/-- A token or length code read to its end. -/
theorem Reencodes.token {p : List Item} {i : Instr} (hEncode : encode i = p) (hWf : WellFormed i = true) :
    Reencodes p fun xs => .ok i xs := by
  intro xs j r h
  cases h
  exact ⟨by rw [hEncode], fun _ => hWf⟩

/-- The rest of a byte-aligned instruction is taken as it stands. -/
theorem Reencodes.bytes {p : List Item} {mk : List Item → Instr} {rest : List Item → List Item}
    (hEncode : ∀ xs, encode (mk xs) ++ rest xs = p ++ xs) (hCtx : ∀ xs, bitPacked (mk xs).ctx = false) :
    Reencodes p fun xs => .ok (mk xs) (rest xs) := by
  intro xs j r h
  cases h
  exact ⟨hEncode xs, fun hPacked => by simp [hCtx] at hPacked⟩

theorem decodeRepeat_reencodes {lo : Byte} (h : (lo == 1 || lo == 2) = true) :
    Reencodes (farFlags ++ [.byte lo]) (decodeRepeat lo) :=
  .bind takeFlag_inverts fun
    | true => .bits fun v => .bind takeByte_inverts fun x => .bind takeByte_inverts fun c => .token (by simp [encode]) h
    | false => .bits fun v => .bind takeByte_inverts fun c => .token (by simp [encode]) h

/-- What stands after `1,1,0,0,0,0,0` and a byte. -/
theorem far_reencodes (lo : Byte) : Reencodes (farFlags ++ [.byte lo]) fun xs =>
    if 2 < lo.toNat then .ok (.m2Aref lo) xs else if lo = 0 then .ok .m2End xs else decodeRepeat lo xs :=
  .ite (fun hLo => .token rfl (decide_eq_true hLo)) fun hLe =>
  .ite (fun hZero => .token (by rw [hZero]; rfl) rfl) fun hNe => decodeRepeat_reencodes ((repeatMark_iff lo).mpr ⟨hLe, hNe⟩)

theorem decodeM2Token_reencodes : Reencodes [] decodeM2Token :=
  .bind takeFlag_inverts fun
    | false => .bind takeByte_inverts fun c => .token rfl rfl
    | true => .bind takeFlag_inverts fun
      | false => .bind takeByte_inverts fun d => .token rfl rfl
      | true => .bits fun h => .bind takeByte_inverts fun lo => .ite
          (fun hNe => .token (by simp [encode]) (by simpa [WellFormed, ← BitVec.toNat_inj] using hNe))
          (fun hZero => by rw [not_not.mp hZero]; exact far_reencodes lo)

theorem decodeM2Length_reencodes : Reencodes [] decodeM2Length :=
  .bind takeFlag_inverts fun
  | true => .token rfl rfl
  | false => .bind takeFlag_inverts fun
  | true => .token rfl rfl
  | false => .bind takeFlag_inverts fun
  | true => .token rfl rfl
  | false => .bind takeFlag_inverts fun
  | true => .token rfl rfl
  | false => .bind takeFlag_inverts fun
  | true => .bits fun x => .token (by rw [BitVec.ofNat_toNat, BitVec.setWidth_eq]; rfl) rfl
  | false => .bind takeByte_inverts fun x => .token rfl rfl

theorem decodeContainer_reencodes : Reencodes [] decodeContainer :=
  .bind takeU32_inverts fun flag => .ite
    (fun _ => .bind takeU32_inverts fun nb => .bind takeU32_inverts fun cs => .bind takeU32_inverts fun maxrec =>
      .bind takeU32_inverts fun us => .bytes (by simp [encode]) fun _ => rfl)
    (fun _ => .bind takeU32_inverts fun us => .bind takeU32_inverts fun nb => .bytes (by simp [encode]) fun _ => rfl)

theorem decodeM3Record_reencodes : Reencodes [] decodeM3Record :=
  .bind takeU32_inverts fun bs => .bind takeU32_inverts fun ubs => .bind takeU32_inverts fun bt =>
    .bytes (by simp [encode]) fun _ => rfl

theorem decodeM3Token_reencodes : Reencodes [] decodeM3Token :=
  .bind takeByte_inverts fun a => .bind takeByte_inverts fun b => .ite
    (fun hZero => .bytes (by simp [encode, byteItems_cons, hZero]) fun _ => rfl)
    (fun _ => .bytes (by simp [encode, byteItems_cons]) fun _ => rfl)

theorem decodeM2Chunk_reencodes : Reencodes [] decodeM2Chunk :=
  .bind takeU16_inverts fun bs => .bytes (by simp [encode]) fun _ => rfl

theorem decodeM2Start_reencodes : Reencodes [] decodeM2Start :=
  .bind takeByte_inverts fun method => .bytes (by simp [encode, byteItems_cons]) fun _ => rfl

theorem decodeM2FlagWord_reencodes : Reencodes [] decodeM2FlagWord :=
  .bind takeU16_inverts fun w => .bytes (by simp [encode]) fun _ => rfl

theorem decode_reencodes (c : Ctx) : Reencodes [] (decode c) := by
  cases c with
  | container => exact decodeContainer_reencodes
  | m3Record => exact decodeM3Record_reencodes
  | m3Token => exact decodeM3Token_reencodes
  | m2Chunk => exact decodeM2Chunk_reencodes
  | m2Start => exact decodeM2Start_reencodes
  | m2Token => exact decodeM2Token_reencodes
  | m2Length => exact decodeM2Length_reencodes
  | m2FlagWord => exact decodeM2FlagWord_reencodes

/-- Settles O2: every reader takes the encoding of its answer. -/
theorem encodeInvertsDecode : Obligations.EncodeInvertsDecode := by
  intro c xs i r h
  obtain ⟨hCtx, -⟩ := decode_readAt c xs i r h
  obtain ⟨hEncode, hWf⟩ := decode_reencodes c xs i r h
  refine ⟨hCtx, hEncode, fun hPlace => hWf ?_⟩
  rw [hCtx]
  obtain rfl | rfl := hPlace
  · rfl
  · rfl

/-! ## Length codes (30_encoding R114, 44_mode2_encode R309) -/

theorem codeLength_range {i : Instr} (hCtx : i.ctx = .m2Length) : 2 ≤ codeLength i ∧ codeLength i ≤ 269 := by
  cases i with
  | len2 | len3 | len4 | len5 => decide
  | len6to13 x =>
    have := x.isLt
    simp only [codeLength]
    omega
  | len14to269 x =>
    have := x.isLt
    simp only [codeLength]
    omega
  | _ => cases hCtx

/-- The encoder's code of a length is the only one. -/
theorem lengthCode_codeLength {i : Instr} (hCtx : i.ctx = .m2Length) : lengthCode (codeLength i) = i := by
  cases i with
  | len2 | len3 | len4 | len5 => rfl
  | len6to13 x =>
    have hMid : x.toNat + 6 ≤ 13 := by have := x.isLt; omega
    simp [codeLength, lengthCode, hMid]
  | len14to269 x => simp [codeLength, lengthCode]
  | _ => cases hCtx

theorem lengthCode_ctx (n : Nat) : (lengthCode n).ctx = .m2Length := by
  unfold lengthCode
  split_ifs <;> rfl

theorem codeLength_lengthCode {n : Nat} (hLow : 2 ≤ n) (hHigh : n ≤ 269) : codeLength (lengthCode n) = n := by
  unfold lengthCode
  split_ifs
  all_goals
    simp only [codeLength, BitVec.toNat_ofNat]
    omega

/-- Settles O5: the rows bit by bit; that a length has one code, because the encoder's code and `codeLength` are inverse to each other. -/
theorem lengthCodesAreCanonical : Obligations.LengthCodesAreCanonical := by
  refine ⟨⟨rfl, rfl, rfl, rfl, fun x => rfl, fun x => rfl⟩, fun i => codeLength_range, fun n hLow hHigh => ?_⟩
  refine ⟨lengthCode n, lengthCode_ctx n, codeLength_lengthCode hLow hHigh, fun j hCtx hLen => ?_, rfl⟩
  rw [← hLen, lengthCode_codeLength hCtx]

/-! ## Distances and counts (30_encoding R115, R116) -/

/-- A field above a byte, as the long forms put them together. -/
theorem toNat_field_or_byte {k w : Nat} (a : BitVec k) (b : Byte) (hFits : k + 8 ≤ w) :
    (a.setWidth w <<< 8 ||| b.setWidth w).toNat = a.toNat * 256 + b.toNat := by
  have hField : a.toNat * 2 ^ 8 < 2 ^ w :=
    calc a.toNat * 2 ^ 8 < 2 ^ k * 2 ^ 8 := Nat.mul_lt_mul_of_pos_right a.isLt (by decide)
      _ = 2 ^ (k + 8) := (pow_add 2 k 8).symm
      _ ≤ 2 ^ w := Nat.pow_le_pow_right (by decide) hFits
  rw [BitVec.toNat_or, BitVec.toNat_shiftLeft, BitVec.toNat_setWidth_of_le (by omega), BitVec.toNat_setWidth_of_le (by omega),
    Nat.shiftLeft_eq, Nat.mod_eq_of_lt hField, ← Nat.shiftLeft_eq, ← Nat.shiftLeft_add_eq_or_of_lt b.isLt, Nat.shiftLeft_eq]

theorem byteDistance_toNat (d : Byte) : (byteDistance d).toNat = d.toNat := BitVec.toNat_setWidth_of_le (by decide)

theorem lrefDistance_toNat (h : BitVec 5) (lo : Byte) : (lrefDistance h lo).toNat = h.toNat * 256 + lo.toNat :=
  toNat_field_or_byte h lo (by decide)

theorem longCount_eq (v : BitVec 4) (x : Byte) : longCount v x = v.toNat * 256 + x.toNat + 14 :=
  congrArg (· + 14) (toNat_field_or_byte v x (by decide))

/-- A long reference reaches from 0x100 to 0x1FFF (R116). -/
theorem lrefDistance_range {h : BitVec 5} (hNe : h ≠ 0) (lo : Byte) :
    0x100 ≤ (lrefDistance h lo).toNat ∧ (lrefDistance h lo).toNat ≤ 0x1FFF := by
  have hPos : h.toNat ≠ 0 := by simpa [← BitVec.toNat_inj] using hNe
  have := h.isLt
  have := lo.isLt
  rw [lrefDistance_toNat]
  omega

/-- Settles O19: each token holds its distance and hands on to the length code. -/
theorem distanceTokensSetDistance : Obligations.DistanceTokensSetDistance := by
  intro s
  refine ⟨fun d => ?_, fun h lo hNe => ?_, fun lo => ?_⟩
  · exact ⟨_, rfl, rfl, byteDistance_toNat d⟩
  · exact ⟨_, rfl, rfl, BitVec.toNat_setWidth_of_le (by decide), lrefDistance_toNat h lo, lrefDistance_range hNe lo⟩
  · exact ⟨_, rfl, rfl, byteDistance_toNat lo⟩

/-! ## The repeats (43_mode2_decode R272, R275) -/

/-- `t` is `s` after a repeat of `count` bytes `c`: `LO`, `BR` and `RUN` hold what was read and folded, `OPOS` has moved past the bytes. -/
def Repeated (lo : Byte) (br : BitVec 1) (count : Nat) (c : Byte) (s t : State) : Prop :=
  t = { s with SCRATCH := t.SCRATCH, m2d := { s.m2d with LO := lo, BR := br, RUN := t.m2d.RUN, OPOS := t.m2d.OPOS } } ∧
  t.m2d.RUN.toNat = count ∧ t.m2d.OPOS.toNat = s.m2d.OPOS.toNat + count ∧
  Written s.SCRATCH t.SCRATCH s.m2d.OPOS.toNat (List.replicate count c)

/-- A repeat that fits is written; `RUN` has room for the counts of both forms. -/
theorem repeated_repeatByte {count : Nat} {s : State} (lo : Byte) (br : BitVec 1) (c : Byte) (hWf : s.SCRATCH.wf = true)
    (hRun : count < 2 ^ 13) (hFits : s.m2d.OPOS.toNat + count ≤ 65536) :
    Repeated lo br count c s (repeatByte lo br count c s) := by
  obtain ⟨hOver, -⟩ | ⟨-, hFill⟩ :=
    fillScratch_cases c count { s with m2d := { s.m2d with LO := lo, BR := br, RUN := BitVec.ofNat 13 count } }
  · exact absurd hFits (Nat.not_le.mpr hOver)
  · rw [repeatByte, hFill]
    exact ⟨rfl, Nat.mod_eq_of_lt hRun, opos_add hFits, setAll_written hWf _ _⟩

/-- A repeat that does not fit is `Overflow`. -/
theorem endsInError_repeatByte {count : Nat} {s : State} (lo : Byte) (br : BitVec 1) (c : Byte)
    (hOver : 65536 < s.m2d.OPOS.toNat + count) : EndsInError (.next (repeatByte lo br count c s)) .overflow := by
  obtain ⟨-, hRaise⟩ | ⟨hFits, -⟩ :=
    fillScratch_cases c count { s with m2d := { s.m2d with LO := lo, BR := br, RUN := BitVec.ofNat 13 count } }
  · rw [repeatByte, hRaise]
    exact endsInError_raise .overflow _
  · exact absurd hFits (Nat.not_le.mpr hOver)

theorem exec_m2Rpts (lo : Byte) (v : BitVec 4) (c : Byte) (s : State) :
    exec (.m2Rpts lo v c) s = .next (repeatByte lo 0 (v.toNat + 14) c s) := rfl

theorem exec_m2Rptl (lo : Byte) (v : BitVec 4) (x c : Byte) (s : State) :
    exec (.m2Rptl lo v x c) s = .next (repeatByte lo 1 (v.toNat * 256 + x.toNat + 14) c s) := by
  rw [← longCount_eq]
  rfl

/-- Settles O21: both forms are the one repeat, with their own count and `BR`. -/
theorem repeatTokensFill : Obligations.RepeatTokensFill := by
  intro lo v x c s hWf
  have hv := v.isLt
  have hx := x.isLt
  rw [exec_m2Rpts, exec_m2Rptl]
  refine ⟨fun hFits => ⟨_, rfl, ?_⟩, endsInError_repeatByte lo 0 c, fun hFits => ⟨_, rfl, ?_⟩, endsInError_repeatByte lo 1 c⟩
  · exact repeated_repeatByte lo 0 c hWf (by omega) hFits
  · exact repeated_repeatByte lo 1 c hWf (by omega) hFits

end Sys2Proof.Encoding
end

section
/-! The family 40_framer, decoding: what the container records of both modes load, the errors they end in and in which order, and the
copy-out of a mode-2 chunk with its stop test. -/

namespace Sys2Proof.Framing

open Sys2Proof.Machine Sys2Proof.Safety Sys2Proof.Scope Sys2Proof.Invariants

/-! ## Where a register has room (log 9) -/

theorem advanceSp_eq {n : Nat} {s : State} (h : s.SP.toNat + n < 2 ^ 64) :
    advanceSp n s = { s with SP := BitVec.ofNat 64 (s.SP.toNat + n) } := if_pos h

theorem finish_eq {s : State} (h : s.OUT.len < 2 ^ 64) :
    finish s = { s with OUTLEN := BitVec.ofNat 64 s.OUT.len, STATE := .done, ERR := 0, phase := .waiting } := by
  rw [finish, setOutlen, if_pos h]

/-- The end state of a command (R402). -/
def EndsDone (t : State) : Prop :=
  t.STATE = .done ∧ t.ERR = 0 ∧ (t.OUT.len < 2 ^ 64 → t.OUTLEN = BitVec.ofNat 64 t.OUT.len)

theorem endsDone_finish (s : State) : EndsDone (finish s) :=
  ⟨finish_STATE s, finish_ERR s, fun h => by rw [finish_OUT] at h ⊢; exact finish_OUTLEN s h⟩

/-! ## The instruction at the cursor (R151, R153, R160) -/

theorem runFetched_ok {tk : Take Instr} {i : Instr} {r : List Item} (h : tk = .ok i r) (e : ErrorKind) (s : State) :
    runFetched e tk s = exec i s := by rw [h]; rfl

theorem m2ReadStep_ok {c : Ctx} {s : State} {i : Instr} {r : List Item} (h : decode c s.m2d.tok = .ok i r) :
    m2ReadStep c s = exec i { s with m2d := { s.m2d with tok := [] } } := by rw [m2ReadStep, h]

/-- With no flag bit left a token that asks for one makes the reader execute the flag word at `OFF` (R262). -/
theorem m2ReadStep_flagWord {c : Ctx} {s : State} {i : Instr} {r : List Item} (hNeed : decode c s.m2d.tok = .needFlag)
    (hBits : s.m2d.NBITS = 0) (hWord : decode .m2FlagWord (byteItems (s.CHUNK.slice s.m2d.OFF.toNat 2)) = .ok i r) :
    m2ReadStep c s = exec i s := by
  simp only [m2ReadStep, hNeed, readFlag, hBits, if_true]
  exact runFetched_ok hWord _ s

/-- Settles O6: the engine's step at each phase that fetches, with the decoder's answer put in. -/
theorem stepRunsDecodedInstruction : Obligations.StepRunsDecodedInstruction := by
  intro s i r hs
  rw [step_of_no_turns hs]
  have hToken (hp : s.phase = .m2Token) : engineStep s = m2ReadStep .m2Token s := by rw [engineStep, hp]
  have hLength (hp : s.phase = .m2Length) : engineStep s = m2ReadStep .m2Length s := by rw [engineStep, hp]
  refine ⟨fun hp h => ?_, fun hp h => ?_, fun hp hIp h => ?_, fun hp h => ?_, fun hp h => ?_, fun hp h => ?_, fun hp h => ?_,
    fun hNeed hBits hWord => ?_⟩
  · rw [engineStep, hp]; exact runFetched_ok h _ s
  · rw [engineStep, hp]; exact runFetched_ok h _ s
  · rw [engineStep, hp]; exact (if_neg (not_le.mpr hIp)).trans (runFetched_ok h _ s)
  · rw [engineStep, hp]; exact runFetched_ok h _ s
  · rw [engineStep, hp]; exact runFetched_ok h _ s
  · rw [hToken hp]; exact m2ReadStep_ok h
  · rw [hLength hp]; exact m2ReadStep_ok h
  · obtain ⟨hp, h⟩ | ⟨hp, h⟩ := hNeed
    · rw [hToken hp]; exact m2ReadStep_flagWord h hBits hWord
    · rw [hLength hp]; exact m2ReadStep_flagWord h hBits hWord

/-! ## The mode-3 container (R151 to R156) -/

/-- `s` with a mode-3 header read: its fields, no record done, and SP past it. -/
def m3HeaderRead (flag nb cs maxrec us : BitVec 32) (s : State) : State :=
  advanceSp 20
    { s with fr := { s.fr with FLAG := flag, NB := nb, CS := cs, MAXREC := maxrec, US := us, SEGIDX := 0 }, phase := .m3Record }

theorem exec_m3ContainerHeader (flag nb cs maxrec us : BitVec 32) (s : State) :
    exec (.m3ContainerHeader flag nb cs maxrec us) s =
      if nb = 0 then .next (finish (m3HeaderRead flag nb cs maxrec us s)) else .next (m3HeaderRead flag nb cs maxrec us s) := rfl

/-- Settles O26: the five fields are loaded, and with no record the command ends there. -/
theorem m3HeaderLoadsFields : Obligations.M3HeaderLoadsFields := by
  intro flag nb cs maxrec us s hSp hOut
  have hRead : m3HeaderRead flag nb cs maxrec us s = _ := advanceSp_eq hSp
  have hEnd : finish (m3HeaderRead flag nb cs maxrec us s) = _ := finish_eq (by rw [hRead]; exact hOut)
  rw [exec_m3ContainerHeader, hEnd, hRead]
  refine ⟨fun hnb => if_neg hnb, fun hnb => if_pos hnb, fun hnb hEmpty => ⟨_, if_pos hnb, rfl, ?_⟩⟩
  simp only [hEmpty]
  exact ⟨rfl, rfl⟩

/-- `s` with a block record read: its header, its payload in SEG, and SP past it. -/
def recordRead (bs ubs bt : BitVec 32) (payload : List Byte) (s : State) : State :=
  advanceSp (12 + payload.length) { s with fr := { s.fr with BS := bs, UBS := ubs, BT := bt }, SEG := Space.ofList payload }

/-- What follows the reading of a block record, in the order of R153 to R155. -/
def recordOutcome (bs bt : BitVec 32) (payload : List Byte) (u : State) : State :=
  if bs.toNat < 4 then raise .badHeader u
  else if payload.length < bs.toNat - 4 then raise .truncatedInput u
  else if bt = 8 then startSegment u
  else nextRecord { u with OUT := u.OUT.setAll u.OUT.len payload }

theorem exec_m3BlockRecord (bs ubs bt : BitVec 32) (payload : List Byte) (s : State) :
    exec (.m3BlockRecord bs ubs bt payload) s = .next (recordOutcome bs bt payload (recordRead bs ubs bt payload s)) := by
  change execM3BlockRecord bs ubs bt payload s = _
  simp only [execM3BlockRecord, ← apply_ite Host.Outcome.next]
  rfl

/-- Writing at the end of a space makes it longer by what is written. -/
theorem setAll_len_end (m : Space) (bs : List Byte) : (m.setAll m.len bs).len = m.len + bs.length := by
  rw [setAll_len_of_le _ le_rfl]
  omega

/-- Settles O27: the two errors in order, then the two kinds of segment. -/
theorem m3RecordDemux : Obligations.M3RecordDemux := by
  intro bs ubs bt payload s hOut hSp
  have hRead : recordRead bs ubs bt payload s = _ := advanceSp_eq (by rwa [← Nat.add_assoc])
  rw [exec_m3BlockRecord, hRead, recordOutcome]
  set u : State := { s with fr := _, SEG := _, SP := _ }
  refine ⟨fun hBs => ?_, fun hBs hLen => ?_, fun hBs hLen hBt => ?_, fun hBs hLen hBt => ?_⟩
  · rw [if_pos hBs]
    exact endsInError_raise _ _
  · rw [if_neg (not_lt.mpr hBs), if_pos hLen]
    exact endsInError_raise _ _
  · rw [if_neg (not_lt.mpr hBs), if_neg (by omega), if_pos hBt]
    exact ⟨_, rfl, rfl, toList_ofList payload⟩
  · rw [if_neg (not_lt.mpr hBs), if_neg (by omega), if_neg hBt]
    have hOutLen := setAll_len_end s.OUT payload
    have hSeg : u.SEG.toList = payload := toList_ofList payload
    have hWritten := setAll_written hOut s.OUT.len payload
    refine ⟨_, rfl, ?_⟩
    obtain ⟨hMore, h⟩ | ⟨hLast, h⟩ := nextRecord_cases { u with OUT := u.OUT.setAll u.OUT.len payload }
    · rw [h]
      have hMore : s.fr.SEGIDX.toNat + 1 < s.fr.NB.toNat := hMore
      exact ⟨by rw [if_pos hMore], hSeg, rfl, hWritten, hOutLen, (if_pos hMore).symm, (if_pos hMore).symm, (if_pos hMore).symm,
        fun _ => rfl, fun hLast => absurd hMore (not_lt.mpr hLast), rfl, rfl, rfl, rfl, rfl, rfl⟩
    · rw [h]
      have hLast : ¬ s.fr.SEGIDX.toNat + 1 < s.fr.NB.toNat := not_lt.mpr hLast
      obtain ⟨hState, hErr, hOutlen⟩ := endsDone_finish { u with OUT := u.OUT.setAll u.OUT.len payload }
      rw [if_neg hLast, if_neg hLast, if_neg hLast, if_neg hLast, finish_fr, finish_SEG, finish_SP, finish_m3d, finish_m2d,
        finish_SCRATCH, finish_SUB, finish_CHUNK, finish_SUBPOS]
      exact ⟨rfl, hSeg, rfl, by rwa [finish_OUT], by rwa [finish_OUT], finish_phase _, hState, hErr, fun hMore => absurd hMore hLast,
        fun _ => hOutlen, rfl, rfl, rfl, rfl, rfl, rfl⟩

/-! ## The header fields no decoder checks (R157)

A change of framer registers that no operation reads can be made before the operation or after it. -/

/-- `s` with its framer registers changed by `f`. -/
def onFramer (f : FramerRegs → FramerRegs) (s : State) : State := { s with fr := f s.fr }

section
variable (f : FramerRegs → FramerRegs) (s : State)

theorem onFramer_raise (e : ErrorKind) : onFramer f (raise e s) = raise e (onFramer f s) := rfl

theorem onFramer_startSegment : onFramer f (startSegment s) = startSegment (onFramer f s) := rfl

theorem onFramer_advanceSp (n : Nat) : onFramer f (advanceSp n s) = advanceSp n (onFramer f s) := apply_ite (onFramer f) _ _ _

theorem onFramer_setOutlen : onFramer f (setOutlen s) = setOutlen (onFramer f s) := apply_ite (onFramer f) _ _ _

theorem onFramer_finish : onFramer f (finish s) = finish (onFramer f s) := by
  rw [finish, finish, ← onFramer_setOutlen]
  rfl

/-- A mode-3 token reads and writes no register of the framer. -/
theorem exec_m3Token_onFramer {i : Instr} (hc : i.ctx = .m3Token) : exec i (onFramer f s) = onNext (onFramer f) (exec i s) := by
  cases i with
  | m3Lit n data =>
    simp only [exec, execM3Lit, apply_ite (onNext (onFramer f))]
    rfl
  | m3Ref a b c =>
    cases c with
    | none =>
      simp only [exec, execM3Ref, apply_ite (onNext (onFramer f))]
      rfl
    | some v =>
      simp only [exec, execM3Ref, apply_ite (onNext (onFramer f))]
      rfl
  | _ => cases hc

end

/-- `f` leaves alone the registers that count the records. -/
structure KeepsCount (f : FramerRegs → FramerRegs) : Prop where
  nb : ∀ r, (f r).NB = r.NB
  segidx : ∀ r, (f r).SEGIDX = r.SEGIDX
  count : ∀ r v, f { r with SEGIDX := v } = { f r with SEGIDX := v }

theorem KeepsCount.nextRecord {f : FramerRegs → FramerRegs} (h : KeepsCount f) (s : State) :
    onFramer f (nextRecord s) = nextRecord (onFramer f s) := by
  have hNext : onFramer f { s with fr := { s.fr with SEGIDX := s.fr.SEGIDX + 1 }, phase := .m3Record } =
      { onFramer f s with fr := { f s.fr with SEGIDX := (f s.fr).SEGIDX + 1 }, phase := .m3Record } := by
    rw [h.segidx, ← h.count]
    rfl
  rw [Machine.nextRecord, apply_ite (onFramer f), onFramer_finish, hNext, ← h.nb, ← h.segidx]
  rfl

theorem KeepsCount.recordOutcome {f : FramerRegs → FramerRegs} (h : KeepsCount f) (bs bt : BitVec 32) (payload : List Byte)
    (u : State) : onFramer f (recordOutcome bs bt payload u) = recordOutcome bs bt payload (onFramer f u) := by
  simp only [Framing.recordOutcome, apply_ite (onFramer f), onFramer_raise, onFramer_startSegment, h.nextRecord]
  rfl

/-- The header fields of R157 made other values. -/
def withHeader (flag cs maxrec us : BitVec 32) (r : FramerRegs) : FramerRegs :=
  { r with FLAG := flag, CS := cs, MAXREC := maxrec, US := us }

/-- The record field of R157 made another value. -/
def withUbs (ubs : BitVec 32) (r : FramerRegs) : FramerRegs := { r with UBS := ubs }

theorem keepsCount_withHeader (flag cs maxrec us : BitVec 32) : KeepsCount (withHeader flag cs maxrec us) :=
  ⟨fun _ => rfl, fun _ => rfl, fun _ _ => rfl⟩

theorem keepsCount_withUbs (ubs : BitVec 32) : KeepsCount (withUbs ubs) := ⟨fun _ => rfl, fun _ => rfl, fun _ _ => rfl⟩

section
variable (flag cs maxrec us flag' cs' maxrec' us' : BitVec 32) (s : State)

theorem exec_m3ContainerHeader_unchecked (nb : BitVec 32) :
    exec (.m3ContainerHeader flag' nb cs' maxrec' us') s
      = onNext (onFramer (withHeader flag' cs' maxrec' us')) (exec (.m3ContainerHeader flag nb cs maxrec us) s) := by
  have hRead : m3HeaderRead flag' nb cs' maxrec' us' s
      = onFramer (withHeader flag' cs' maxrec' us') (m3HeaderRead flag nb cs maxrec us s) := by
    rw [m3HeaderRead, m3HeaderRead, onFramer_advanceSp]
    rfl
  simp only [exec_m3ContainerHeader, apply_ite (onNext _), onNext_next, onFramer_finish, hRead]

theorem exec_m3BlockRecord_withHeader (bs ubs bt : BitVec 32) (payload : List Byte) :
    exec (.m3BlockRecord bs ubs bt payload) (onFramer (withHeader flag cs maxrec us) s)
      = onNext (onFramer (withHeader flag cs maxrec us)) (exec (.m3BlockRecord bs ubs bt payload) s) := by
  have hRead : recordRead bs ubs bt payload (onFramer (withHeader flag cs maxrec us) s)
      = onFramer (withHeader flag cs maxrec us) (recordRead bs ubs bt payload s) := by
    rw [recordRead, recordRead, onFramer_advanceSp]
    rfl
  simp only [exec_m3BlockRecord, onNext_next, (keepsCount_withHeader _ _ _ _).recordOutcome, hRead]

theorem exec_m3BlockRecord_withUbs (bs ubs ubs' bt : BitVec 32) (payload : List Byte) :
    exec (.m3BlockRecord bs ubs' bt payload) s = onNext (onFramer (withUbs ubs')) (exec (.m3BlockRecord bs ubs bt payload) s) := by
  have hRead : recordRead bs ubs' bt payload s = onFramer (withUbs ubs') (recordRead bs ubs bt payload s) := by
    rw [recordRead, recordRead, onFramer_advanceSp]
    rfl
  simp only [exec_m3BlockRecord, onNext_next, (keepsCount_withUbs _).recordOutcome, hRead]

end

/-- Settles O31: each change of those fields passes through the operation unseen. -/
theorem headerFieldsUnchecked : Obligations.HeaderFieldsUnchecked := by
  refine ⟨fun flag nb cs maxrec us flag' cs' maxrec' us' s t h => ?_, fun i flag cs maxrec us s t hc h => ?_,
    fun i flag cs maxrec us ubs s t hc h => ?_, fun bs ubs ubs' bt payload s t h => ?_⟩
  · rw [exec_m3ContainerHeader_unchecked flag cs maxrec us, h]
    rfl
  · have hExec : exec i (onFramer (withHeader flag cs maxrec us) s) = onNext (onFramer (withHeader flag cs maxrec us)) (exec i s) := by
      obtain hc | hc := hc
      · cases i with
        | m3BlockRecord bs ubs bt payload => exact exec_m3BlockRecord_withHeader flag cs maxrec us s bs ubs bt payload
        | _ => cases hc
      · exact exec_m3Token_onFramer _ s hc
    rw [h] at hExec
    exact hExec
  · have hExec := exec_m3Token_onFramer (withUbs ubs ∘ withHeader flag cs maxrec us) s hc
    rw [h] at hExec
    exact hExec
  · rw [exec_m3BlockRecord_withUbs s bs ubs, h]
    rfl

/-! ## The mode-2 container (R158 to R160) -/

/-- `s` with a mode-2 header read: its fields, and SP past the sub-stream. -/
def m2HeaderRead (cs us nb : BitVec 32) (sub : List Byte) (s : State) : State :=
  { s with
    fr := { s.fr with FLAG := cs, CS := cs, US := us, NB := nb }
    SP := BitVec.ofNat 64 (s.SP.toNat + (12 + sub.length)) }

/-- The output and the sub-stream made ready for the first chunk (R159). -/
def m2Allocated (us : BitVec 32) (sub : List Byte) (s : State) : State :=
  { s with OUT := Space.zeros us.toNat, SUB := Space.ofList sub, SUBPOS := 0, fr := { s.fr with COFF := 0, SEGIDX := 0 },
           phase := .m2Chunk }

/-- What a mode-2 header does, in the order of R158 and R159. -/
theorem exec_m2ContainerHeader {cs us nb : BitVec 32} {sub : List Byte} {s : State} (hSp : s.SP.toNat + 12 + sub.length < 2 ^ 64) :
    exec (.m2ContainerHeader cs us nb sub) s =
      let u := m2HeaderRead cs us nb sub s
      if cs.toNat < 8 then .next (raise .badHeader u)
      else if sub.length < cs.toNat - 8 then .next (raise .truncatedInput (m2Allocated us sub u))
      else if nb = 0 then .next (finish (m2Allocated us sub u))
      else .next (m2Allocated us sub u) := by
  change execM2ContainerHeader cs us nb sub s = _
  rw [execM2ContainerHeader, advanceSp_eq]
  · rfl
  · rwa [← Nat.add_assoc]

/-- Settles O28: the two errors in order, then the allocation, with which the command ends when there is no chunk. -/
theorem m2HeaderAllocates : Obligations.M2HeaderAllocates := by
  intro cs us nb sub s hSp
  rw [exec_m2ContainerHeader hSp]
  extract_lets u
  refine ⟨fun hCs => ?_, fun hCs hLen => ?_, fun hCs hLen => ?_⟩
  · rw [if_pos hCs]
    exact endsInError_raise _ _
  · rw [if_neg (not_lt.mpr hCs), if_pos hLen]
    exact endsInError_raise _ _
  · rw [if_neg (not_lt.mpr hCs), if_neg (by omega)]
    have hSub : (m2Allocated us sub u).SUB.toList = sub := toList_ofList sub
    by_cases hNb : nb = 0
    · have hOut : (m2Allocated us sub u).OUT.len < 2 ^ 64 := us.isLt.trans (by decide)
      simp only [if_pos hNb, finish_eq hOut]
      exact ⟨_, rfl, rfl, rfl, fun _ => rfl, hSub⟩
    · simp only [if_neg hNb]
      exact ⟨_, rfl, rfl, rfl, fun _ => rfl, hSub⟩

/-- `s` with a chunk record read: its length, its bytes in CHUNK, and the cursor of SUB past them. -/
def chunkRead (bs : BitVec 16) (chunk : List Byte) (s : State) : State :=
  { s with fr := { s.fr with BS := bs.setWidth 32 }, CHUNK := Space.ofList chunk, SUBPOS := s.SUBPOS + 2 + chunk.length,
           phase := .m2Start }

/-- What a chunk record does, in the order of R160. -/
theorem exec_m2ChunkRecord (bs : BitVec 16) (chunk : List Byte) (cont : Option Byte) (s : State) :
    exec (.m2ChunkRecord bs chunk cont) s =
      if bs.toNat < 2 then .next (raise .badHeader (chunkRead bs chunk s))
      else if chunk.length < bs.toNat - 2 then .next (raise .truncatedInput (chunkRead bs chunk s))
      else .next (chunkRead bs chunk s) := rfl

/-- Settles O29: the two errors in order, then the chunk. -/
theorem m2ChunkRecordLoads : Obligations.M2ChunkRecordLoads := by
  intro bs chunk cont s
  rw [exec_m2ChunkRecord]
  refine ⟨fun hBs => ?_, fun hBs hLen => ?_, fun hBs hLen => ?_⟩
  · rw [if_pos hBs]
    exact endsInError_raise _ _
  · rw [if_neg (not_lt.mpr hBs), if_pos hLen]
    exact endsInError_raise _ _
  · rw [if_neg (not_lt.mpr hBs), if_neg (by omega)]
    refine ⟨_, rfl, ?_, BitVec.toNat_setWidth_of_le (by decide), toList_ofList chunk⟩
    rw [chunkRead, show s.SUBPOS + 2 + chunk.length = s.SUBPOS + bs.toNat by omega]

/-! ## The copy-out and the stop test (R162 to R164) -/

/-- On to the next chunk: the continuation byte `t` is read and kept, and the chunks done are counted (R163). -/
def nextChunk (t : Byte) (s : State) : State :=
  { s with SUBPOS := s.SUBPOS + 1, fr := { s.fr with CONT := t, SEGIDX := s.fr.SEGIDX + 1 }, phase := .m2Chunk }

/-- One byte at `a`, if there is one. -/
theorem slice_one (m : Space) (a : Nat) : m.slice a 1 = if a < m.len then [m.get a] else [] := by
  unfold Space.slice
  split
  next h => rw [show min 1 (m.len - a) = 1 by omega]; rfl
  next h => rw [show min 1 (m.len - a) = 0 by omega]; rfl

/-! The stop test case by case, in its order (R163). -/

theorem stopTest_of_full {s : State} (hFull : s.fr.US.toNat ≤ s.fr.COFF.toNat) : stopTest s = finish s := if_pos hFull

section
variable {s : State} (hRoom : s.fr.COFF.toNat < s.fr.US.toNat)
include hRoom

theorem stopTest_of_no_byte (hNone : s.SUB.len ≤ s.SUBPOS) : stopTest s = finish s := by
  rw [stopTest, if_neg (not_le.mpr hRoom), slice_one, if_neg (not_lt.mpr hNone)]

theorem stopTest_of_zero (hByte : s.SUBPOS < s.SUB.len) (hZero : s.SUB.get s.SUBPOS = 0) :
    stopTest s = finish { s with SUBPOS := s.SUBPOS + 1 } := by
  rw [stopTest, if_neg (not_le.mpr hRoom), slice_one, if_pos hByte]
  exact if_pos hZero

section
variable (hByte : s.SUBPOS < s.SUB.len) (hOn : s.SUB.get s.SUBPOS ≠ 0)
include hByte hOn

theorem stopTest_of_next (hMore : s.fr.SEGIDX.toNat + 1 < s.fr.NB.toNat) : stopTest s = nextChunk (s.SUB.get s.SUBPOS) s := by
  rw [stopTest, if_neg (not_le.mpr hRoom), slice_one, if_pos hByte]
  exact (if_neg hOn).trans (if_pos hMore)

theorem stopTest_of_last (hLast : s.fr.NB.toNat ≤ s.fr.SEGIDX.toNat + 1) :
    stopTest s = finish (nextChunk (s.SUB.get s.SUBPOS) s) := by
  rw [stopTest, if_neg (not_le.mpr hRoom), slice_one, if_pos hByte]
  exact (if_neg hOn).trans (if_neg (not_lt.mpr hLast))

end

end

/-- What the stop test leaves alone, and how it ends a command (R164, R402). -/
structure StopKept (s t : State) : Prop where
  out : t.OUT = s.OUT
  sp : t.SP = s.SP
  sub : t.SUB = s.SUB
  input : t.IN = s.IN
  fr : t.fr = { s.fr with CONT := t.fr.CONT, SEGIDX := t.fr.SEGIDX }
  ends : t.phase = .waiting → EndsDone t

theorem stopKept_finish {s u : State} (out : u.OUT = s.OUT) (sp : u.SP = s.SP) (sub : u.SUB = s.SUB) (input : u.IN = s.IN)
    (fr : u.fr = { s.fr with CONT := u.fr.CONT, SEGIDX := u.fr.SEGIDX }) : StopKept s (finish u) :=
  ⟨by simpa, by simpa, by simpa, by simpa, by simpa, fun _ => endsDone_finish u⟩

theorem stopTest_kept (s : State) : StopKept s (stopTest s) := by
  unfold stopTest
  split
  · exact stopKept_finish rfl rfl rfl rfl rfl
  split
  · exact stopKept_finish rfl rfl rfl rfl rfl
  split_ifs
  · exact stopKept_finish rfl rfl rfl rfl rfl
  · exact ⟨rfl, rfl, rfl, rfl, rfl, fun hp => by cases hp⟩
  · exact stopKept_finish rfl rfl rfl rfl rfl

/-- `s` with the decoded chunk copied to OUT at `COFF`, and `COFF` past it (R162). -/
def chunkCopied (s : State) : State :=
  { s with
    OUT := s.OUT.setAll s.fr.COFF.toNat (s.SCRATCH.slice 0 s.m2d.OPOS.toNat)
    fr := { s.fr with COFF := s.fr.COFF + BitVec.ofNat 32 s.m2d.OPOS.toNat } }

theorem step_m2CopyOut {s : State} (hs : s.turns = []) (hp : s.phase = .m2CopyOut) : step s = .next (copyOut s) := by
  rw [step_of_no_turns hs, engineStep, hp]

/-- `COFF` never wraps while the chunk fits in the output. -/
theorem coff_add {coff us : BitVec 32} {k : Nat} (h : coff.toNat + k ≤ us.toNat) :
    (coff + BitVec.ofNat 32 k).toNat = coff.toNat + k := by bv_omega

/-- Settles O30: the chunk's bytes are written where they fit, and the stop test that follows only reads a byte of SUB. -/
theorem copyOutAndStop : Obligations.CopyOutAndStop := by
  intro s hs hp hOut hScratch
  obtain ⟨hScratchLen, hOpos⟩ := hScratch
  rw [step_m2CopyOut hs hp]
  refine ⟨fun hOver => ?_, fun hFits => ⟨stopTest (chunkCopied s), congrArg _ (if_neg (not_lt.mpr hFits)), ?_⟩⟩
  · rw [copyOut, if_pos hOver]
    exact endsInError_raise _ _
  have hChunk : (s.SCRATCH.slice 0 s.m2d.OPOS.toNat).length = s.m2d.OPOS.toNat := by rw [slice_length]; omega
  have hCoff : (chunkCopied s).fr.COFF.toNat = s.fr.COFF.toNat + s.m2d.OPOS.toNat := coff_add hFits
  obtain ⟨hIn, hOutside⟩ := setAll_written hOut s.fr.COFF.toNat (s.SCRATCH.slice 0 s.m2d.OPOS.toNat)
  rw [hChunk] at hIn hOutside
  obtain ⟨kOut, kSp, kSub, kIn, kFr, kEnds⟩ := stopTest_kept (chunkCopied s)
  have kCoff := congrArg FramerRegs.COFF kFr
  refine ⟨fun i hi => ?_, fun x hx => ?_, fun hLen => ?_, kSp, kSub, kIn, ?_, ?_, kEnds, fun hFull => ?_, fun hRoom hNone => ?_,
    fun hRoom hByte hZero => ?_, fun hRoom hByte hOn => ?_⟩
  · rw [kOut]
    refine (hIn i hi).trans ((getD_slice (by omega)).trans ?_)
    rw [Nat.zero_add]
  · rw [kOut]
    exact hOutside x hx
  · rw [kOut]
    exact (setAll_len_of_fits (by omega)).trans hLen
  · rw [kCoff]; exact kFr
  · rw [kCoff]; exact hCoff
  · rw [stopTest_of_full (hCoff.trans hFull.symm).ge]
    simp [chunkCopied]
  · rw [stopTest_of_no_byte (hCoff.trans_lt hRoom) hNone]
    simp [chunkCopied]
  · rw [stopTest_of_zero (hCoff.trans_lt hRoom) hByte hZero]
    simp [chunkCopied]
  · obtain hMore | hLast := lt_or_ge (s.fr.SEGIDX.toNat + 1) s.fr.NB.toNat
    · rw [stopTest_of_next (hCoff.trans_lt hRoom) hByte hOn hMore]
      exact ⟨rfl, rfl, rfl, fun _ => ⟨rfl, rfl, rfl, rfl⟩, fun hLast => absurd hMore (not_lt.mpr hLast)⟩
    · rw [stopTest_of_last (hCoff.trans_lt hRoom) hByte hOn hLast, finish_fr, finish_SUBPOS]
      exact ⟨rfl, rfl, rfl, fun hMore => absurd hMore (not_lt.mpr hLast), fun _ => finish_phase _⟩

end Sys2Proof.Framing
end

section
/-! The family 40_framer, encoding: how a segment or a chunk is encoded and kept, and the container written around what was kept. -/

namespace Sys2Proof.Containers

open Sys2Proof.Machine Sys2Proof.Safety Sys2Proof.Scope Sys2Proof.Framing

/-! ## Bytes and sizes -/

/-- The bytes of a byte-aligned instruction are those its encoding is made of. -/
theorem encodeBytes_eq {i : Instr} {bs : List Byte} (h : encode i = byteItems bs) : encodeBytes i = bs := by
  rw [encodeBytes, h, Laws.filterMap_byteItems]

theorem encodeBytes_m3BlockRecord (bs ubs bt : BitVec 32) (payload : List Byte) :
    encodeBytes (.m3BlockRecord bs ubs bt payload) = u32le bs ++ u32le ubs ++ u32le bt ++ payload := encodeBytes_eq rfl

theorem encodeBytes_m3ContainerHeader (flag nb cs maxrec us : BitVec 32) :
    encodeBytes (.m3ContainerHeader flag nb cs maxrec us) = u32le flag ++ u32le nb ++ u32le cs ++ u32le maxrec ++ u32le us :=
  encodeBytes_eq rfl

theorem encodeBytes_m2ContainerHeader (cs us nb : BitVec 32) (sub : List Byte) :
    encodeBytes (.m2ContainerHeader cs us nb sub) = u32le cs ++ u32le us ++ u32le nb ++ sub := encodeBytes_eq rfl

theorem encodeBytes_m2ChunkRecord (bs : BitVec 16) (chunk : List Byte) (cont : Byte) :
    encodeBytes (.m2ChunkRecord bs chunk (some cont)) = u16le bs ++ chunk ++ [cont] := encodeBytes_eq rfl

theorem encodeBytes_m3Lit (n : Byte) (data : List Byte) : encodeBytes (.m3Lit n data) = [0, n] ++ data := encodeBytes_eq rfl

theorem encodeBytes_m3Ref (a b c : Byte) : encodeBytes (.m3Ref a b (some c)) = [a, b, c] := encodeBytes_eq rfl

@[simp] theorem u16le_length (v : BitVec 16) : (u16le v).length = 2 := rfl

@[simp] theorem u32le_length (v : BitVec 32) : (u32le v).length = 4 := rfl

@[simp] theorem toList_length (m : Space) : m.toList.length = m.len := by simp [Space.toList]

@[simp] theorem getElem_toList {m : Space} {i : Nat} (h : i < m.toList.length) : m.toList[i] = m.get i := by
  simp [Space.toList, Space.slice]

/-- Writing at the end of a space appends. -/
theorem toList_setAll_end {m : Space} (hWf : m.wf = true) (bs : List Byte) : (m.setAll m.len bs).toList = m.toList ++ bs := by
  have hLen := setAll_len_end m bs
  refine List.ext_getElem (by simp [hLen]) fun i hi hi' => ?_
  rw [toList_length, hLen] at hi
  rw [getElem_toList, List.getElem_append]
  split
  next h =>
    rw [getElem_toList]
    exact get_setAll_outside _ _ _ _ (.inl (by simpa using h))
  next h =>
    obtain ⟨k, rfl⟩ : ∃ k, i = m.len + k := ⟨i - m.len, by simp at h; omega⟩
    have hk : k < bs.length := by omega
    rw [get_setAll_inside hWf _ _ _ hk]
    simp [hk]

/-- The maximum is one of the numbers, and none is greater. -/
theorem foldl_max_spec {l : List Nat} (h : l ≠ []) : l.foldl max 0 ∈ l ∧ ∀ n ∈ l, n ≤ l.foldl max 0 := by
  cases l with
  | nil => exact absurd rfl h
  | cons a l =>
    have hMax : (a :: l).max? = some ((a :: l).foldl max 0) := by
      rw [List.max?_cons', List.foldl_cons, Nat.zero_max]
    exact List.max?_eq_some_iff.mp hMax

/-- No record is larger than all of them together. -/
theorem size_le_sum {recs : List Rec} {r : Rec} (k : Nat) (h : r ∈ recs) :
    r.z.length + k ≤ (recs.map fun r => r.z.length + k).sum :=
  List.le_sum_of_mem (List.mem_map.mpr ⟨r, h, rfl⟩)

/-- Every record adds at least one to the total. -/
theorem length_le_sum {recs : List Rec} {k : Nat} (hk : 1 ≤ k) : recs.length ≤ (recs.map fun r => r.z.length + k).sum := by
  have := List.length_le_sum_of_one_le (recs.map fun r => r.z.length + k) (by simp; omega)
  rwa [List.length_map] at this

/-! ## The step at each phase of the encoders -/

section
variable {s : State} (hs : s.turns = [])
include hs

theorem step_m3Split (hp : s.phase = .m3Split) : step s = .next (m3SplitStep s) := by rw [step_of_no_turns hs, engineStep, hp]
theorem step_m3Scan (hp : s.phase = .m3Scan) : step s = .next (m3ScanStep s) := by rw [step_of_no_turns hs, engineStep, hp]
theorem step_m3Write (hp : s.phase = .m3Write) : step s = .next (m3WriteStep s) := by rw [step_of_no_turns hs, engineStep, hp]
theorem step_m2Split (hp : s.phase = .m2Split) : step s = .next (m2SplitStep s) := by rw [step_of_no_turns hs, engineStep, hp]
theorem step_m2Scan (hp : s.phase = .m2Scan) : step s = .next (m2ScanStep s) := by rw [step_of_no_turns hs, engineStep, hp]

end

/-! ## The mode-3 encoding of a segment (R174, 42_mode3_encode R230 to R236) -/

/-- What is kept of the segment in hand. -/
def m3Kept (bt : BitVec 32) (z : List Byte) (s : State) : Rec := { ulen := (m3Segment s).length, bt := bt, z := z }

/-- `s` with the number of the segment or chunk in hand in `SEGIDX`. -/
def numbered (s : State) : State := { s with fr := { s.fr with SEGIDX := BitVec.ofNat 32 s.recs.length } }

section
variable {s : State} (h : s.recs.length < m3SegmentCount s.IN.len)
include h

theorem m3SplitStep_of_short (hShort : (m3Segment s).length ≤ 2) :
    m3SplitStep s = keepRec (m3Kept 0 (m3Segment s) s) .m3Split (numbered s) :=
  (if_pos h).trans (if_pos hShort)

section
variable (hLong : 2 < (m3Segment s).length)
include hLong

theorem m3SplitStep_of_reference (hPolicy : s.policy = .reference) : m3SplitStep s = m3StartScan (numbered s) := by
  refine (if_pos h).trans ((if_neg (not_le.mpr hLong)).trans ?_)
  split
  next => rfl
  next h => cases hPolicy.symm.trans h

theorem m3SplitStep_of_anyConforming (hPolicy : s.policy = .anyConforming) : m3SplitStep s =
    let z := Config.freeM3Payload s.fresh (m3Segment s)
    let u := { numbered s with fresh := s.fresh + 1 }
    if decodeM3Payload z = some (m3Segment s) then keepRec (m3Kept 8 z s) .m3Split u else m3StartScan u := by
  refine (if_pos h).trans ((if_neg (not_le.mpr hLong)).trans ?_)
  split
  next h => cases hPolicy.symm.trans h
  next => rfl

end
end

/-- The literals written by `flush` (R235). -/
theorem m3Flush_eq (S : List Byte) (lo hi : Nat) :
    m3Flush S lo hi = if lo < hi then [0, BitVec.ofNat 8 (hi - lo)] ++ (S.drop lo).take (hi - lo) else [] := by
  rw [m3Flush, encodeBytes_m3Lit]

section
variable {S : List Byte} {r : M3EncRegs} {len pat : Nat} (hBest : bestMatch S r.W = (len, pat))
include hBest

theorem m3ScanTurn_of_match (hLen : 2 ≤ len) : m3ScanTurn S r =
    { W := r.W + len + 1, LIT := r.W + len + 1, BESTLEN := len, BESTL := pat
      z := r.z ++ m3Flush S r.LIT r.W ++ [BitVec.ofNat 8 len, BitVec.ofNat 8 (pat - 1), S.getD (r.W + len) 0] } := by
  rw [m3ScanTurn, hBest, ← encodeBytes_m3Ref]
  exact if_pos hLen

section
variable (hLen : len < 2)
include hLen

theorem m3ScanTurn_of_full_run (hRun : r.W + 1 - r.LIT = 255) : m3ScanTurn S r =
    { W := r.W + 1, LIT := r.W + 1, BESTLEN := len, BESTL := pat, z := r.z ++ m3Flush S r.LIT (r.W + 1) } := by
  rw [m3ScanTurn, hBest]
  exact (if_neg (not_le.mpr hLen)).trans (if_pos hRun)

theorem m3ScanTurn_of_literal (hRun : r.W + 1 - r.LIT ≠ 255) :
    m3ScanTurn S r = { r with W := r.W + 1, BESTLEN := len, BESTL := pat } := by
  rw [m3ScanTurn, hBest]
  exact (if_neg (not_le.mpr hLen)).trans (if_neg hRun)

end
end

theorem m3ScanStep_of_inside {s : State} (h : s.m3e.W < (m3Segment s).length) :
    m3ScanStep s = { s with m3e := m3ScanTurn (m3Segment s) s.m3e } := if_pos h

theorem m3ScanStep_of_end {s : State} (h : (m3Segment s).length ≤ s.m3e.W) :
    m3ScanStep s = keepRec (m3Kept 8 (m3ScanEnd (m3Segment s) s.m3e) s) .m3Split
      { s with m3e := { s.m3e with z := m3ScanEnd (m3Segment s) s.m3e } } := if_neg (not_lt.mpr h)

/-- Settles O54: a segment is stored, scanned or kept as it is; the turns of the scan; and its end. -/
theorem shortSegmentsStored : Obligations.ShortSegmentsStored := by
  refine ⟨fun s hs hp hLeft => ⟨fun hShort => ?_, fun hLong hPolicy => ?_, fun hLong hPolicy => ?_⟩,
    fun S r len pat hBest => ⟨fun hLen => ?_, fun hLen hRun => ?_, m3ScanTurn_of_literal hBest⟩,
    fun s hs hp => ⟨fun hInside => ?_, fun hEnd => ⟨m3ScanEnd (m3Segment s) s.m3e, ?_, ?_⟩⟩⟩
  · rw [step_m3Split hs hp, m3SplitStep_of_short hLeft hShort, keepRec, ← hp]
    rfl
  · rw [step_m3Split hs hp, m3SplitStep_of_reference hLeft hLong hPolicy]
    rfl
  · rw [step_m3Split hs hp, m3SplitStep_of_anyConforming hLeft hLong hPolicy]
    by_cases hDec : decodeM3Payload (Config.freeM3Payload s.fresh (m3Segment s)) = some (m3Segment s)
    · simp only [if_pos hDec]
      exact ⟨_, rfl, rfl, rfl, rfl⟩
    · simp only [if_neg hDec]
      exact ⟨_, rfl, rfl, rfl, rfl, rfl⟩
  · rw [m3ScanTurn_of_match hBest hLen, m3Flush_eq]
  · rw [m3ScanTurn_of_full_run hBest hLen hRun, m3Flush_eq, if_pos (by omega), hRun, List.append_assoc]
    rfl
  · rw [step_m3Scan hs hp, m3ScanStep_of_inside hInside]
  · rw [m3ScanEnd, m3Flush_eq]
  · rw [step_m3Scan hs hp, m3ScanStep_of_end hEnd]
    rfl

/-! ## The mode-3 container header (R171, R175) -/

theorem m3SplitStep_of_all_kept {s : State} (h : m3SegmentCount s.IN.len ≤ s.recs.length) : m3SplitStep s = m3WriteHeader s :=
  if_neg (not_lt.mpr h)

/-- Every buffer has a segment, the empty one too (R173). -/
theorem m3SegmentCount_pos (n : Nat) : 0 < m3SegmentCount n := by
  unfold m3SegmentCount Config.m3SegmentSize
  split
  · decide
  · omega

/-- The header of the records kept. -/
def m3HeaderOf (s : State) : FramerRegs :=
  { s.fr with
    FLAG := Config.m3FlagWord
    NB := BitVec.ofNat 32 s.recs.length
    CS := BitVec.ofNat 32 (s.recs.map fun r => r.z.length + 12).sum
    MAXREC := BitVec.ofNat 32 ((s.recs.map fun r => r.z.length + 12).foldl max 0)
    US := BitVec.ofNat 32 s.IN.len
    SEGIDX := 0 }

/-- `s` with the header written. -/
def headerWritten (s : State) : State :=
  let fr := m3HeaderOf s
  { s with fr := fr, OUT := Space.ofList (encodeBytes (.m3ContainerHeader fr.FLAG fr.NB fr.CS fr.MAXREC fr.US)), phase := .m3Write }

section
variable (s : State)

@[simp] theorem headerWritten_phase : (headerWritten s).phase = .m3Write := by simp only [headerWritten]
@[simp] theorem headerWritten_STATE : (headerWritten s).STATE = s.STATE := by simp only [headerWritten]
@[simp] theorem headerWritten_fr : (headerWritten s).fr = m3HeaderOf s := by simp only [headerWritten]
@[simp] theorem headerWritten_recs : (headerWritten s).recs = s.recs := by simp only [headerWritten]
@[simp] theorem headerWritten_turns : (headerWritten s).turns = s.turns := by simp only [headerWritten]

theorem headerWritten_wf : (headerWritten s).OUT.wf = true := by
  rw [headerWritten]
  exact ofList_wf _

end

theorem toList_headerWritten (s : State) : (headerWritten s).OUT.toList =
    u32le 0x80000001 ++ u32le (m3HeaderOf s).NB ++ u32le (m3HeaderOf s).CS ++ u32le (m3HeaderOf s).MAXREC ++ u32le (m3HeaderOf s).US := by
  rw [headerWritten, toList_ofList, encodeBytes_m3ContainerHeader, m3HeaderOf, Config.m3FlagWord]

section
variable {s : State} (hRecs : s.recs ≠ [])
include hRecs

/-- `MAXREC` is the size of one of the records, and no record is larger (R171). -/
theorem maxrec_spec :
    (∃ r ∈ s.recs, (s.recs.map fun r => r.z.length + 12).foldl max 0 = r.z.length + 12) ∧
    ∀ r ∈ s.recs, r.z.length + 12 ≤ (s.recs.map fun r => r.z.length + 12).foldl max 0 := by
  obtain ⟨hMem, hLe⟩ := foldl_max_spec (l := s.recs.map fun r => r.z.length + 12) (by simpa using hRecs)
  obtain ⟨r, hr, hEq⟩ := List.mem_map.mp hMem
  exact ⟨⟨r, hr, hEq.symm⟩, fun r hr => hLe _ (List.mem_map.mpr ⟨r, hr, rfl⟩)⟩

theorem m3WriteHeader_of_fits (hIn : s.IN.len < 2 ^ 32) (hSum : (s.recs.map fun r => r.z.length + 12).sum < 2 ^ 32) :
    m3WriteHeader s = headerWritten s := by
  obtain ⟨⟨r, hr, hMax⟩, -⟩ := maxrec_spec hRecs
  have hMaxLe := size_le_sum 12 hr
  have hCount := length_le_sum (recs := s.recs) (k := 12) (by decide)
  have hLens : ¬ (s.recs.any fun r => decide (2 ^ 32 ≤ r.z.length + 4)) = true := by
    simp only [List.any_eq_true, decide_eq_true_eq, not_exists, not_and, not_le]
    intro r hr
    have := size_le_sum 12 hr
    omega
  have hMaxrec : (s.recs.map fun r => r.z.length + 12).foldl max 0 < 2 ^ 32 := by omega
  have hNb : s.recs.length < 2 ^ 32 := by omega
  rw [m3WriteHeader, if_neg]
  · rfl
  · simp only [not_or, not_le]
    exact ⟨hIn, hSum, hMaxrec, hNb, hLens⟩

end

/-- Settles O57: the header's fields, and that the largest record is one of the records. -/
theorem m3HeaderWritten : Obligations.M3HeaderWritten := by
  intro s hs hp hCount hIn hSum
  have hRecs : s.recs ≠ [] := by
    have := m3SegmentCount_pos s.IN.len
    exact List.ne_nil_of_length_pos (by omega)
  have hStep : step s = .next (headerWritten s) := by
    rw [step_m3Split hs hp, m3SplitStep_of_all_kept hCount.ge, m3WriteHeader_of_fits hRecs hIn hSum]
  obtain ⟨⟨r, hr, hMax⟩, hGreatest⟩ := maxrec_spec hRecs
  have hMaxLe := size_le_sum 12 hr
  have hNb := length_le_sum (recs := s.recs) (k := 12) (by decide)
  have hMaxrec : (m3HeaderOf s).MAXREC.toNat = (s.recs.map fun r => r.z.length + 12).foldl max 0 :=
    Nat.mod_eq_of_lt (by omega)
  refine ⟨_, hStep, ?_⟩
  rw [headerWritten_fr, toList_headerWritten]
  refine ⟨headerWritten_phase s, headerWritten_STATE s, rfl, headerWritten_recs s, Nat.mod_eq_of_lt hSum, Nat.mod_eq_of_lt hIn,
    Nat.mod_eq_of_lt (by omega), fun r hr => ?_, ⟨r, hr, hMaxrec.trans hMax⟩, rfl⟩
  exact (hGreatest r hr).trans hMaxrec.ge

/-! ## The mode-3 records (R172) -/

/-- `s` with the record `r` written at the end of OUT. -/
def recordWritten (r : Rec) (s : State) : State :=
  let fr := { s.fr with BS := BitVec.ofNat 32 (r.z.length + 4), UBS := BitVec.ofNat 32 r.ulen, BT := r.bt }
  { s with fr := fr, OUT := s.OUT.setAll s.OUT.len (encodeBytes (.m3BlockRecord fr.BS fr.UBS fr.BT r.z)) }

theorem toList_recordWritten {s : State} (hOut : s.OUT.wf = true) (r : Rec) : (recordWritten r s).OUT.toList =
    s.OUT.toList ++ u32le (BitVec.ofNat 32 (r.z.length + 4)) ++ u32le (BitVec.ofNat 32 r.ulen) ++ u32le r.bt ++ r.z := by
  rw [recordWritten, toList_setAll_end hOut, encodeBytes_m3BlockRecord]
  simp only [List.append_assoc]

/-- `s` at the next record. -/
def nextWritten (s : State) : State := { s with fr := { s.fr with SEGIDX := s.fr.SEGIDX + 1 } }

@[simp] theorem nextWritten_OUT (s : State) : (nextWritten s).OUT = s.OUT := rfl

theorem m3WriteStep_eq {s : State} {r : Rec} (h : s.recs[s.fr.SEGIDX.toNat]? = some r) :
    m3WriteStep s = if s.fr.SEGIDX.toNat + 1 < s.recs.length then nextWritten (recordWritten r s) else finish (recordWritten r s) := by
  rw [m3WriteStep, h]
  rfl

/-- Settles O58: the record is written at the end of OUT, and after the last the command is done. -/
theorem m3RecordsWritten : Obligations.M3RecordsWritten := by
  intro s r hs hp hOut hRec _ _ hCount
  rw [step_m3Write hs hp, m3WriteStep_eq hRec]
  obtain hMore | hLast := lt_or_ge (s.fr.SEGIDX.toNat + 1) s.recs.length
  · rw [if_pos hMore]
    refine ⟨_, rfl, rfl, ?_, fun _ => ⟨hp, rfl, ?_⟩, fun hEnd => absurd hEnd hMore.ne⟩
    · rw [nextWritten_OUT, toList_recordWritten hOut]
    · change (s.fr.SEGIDX + 1).toNat = _
      bv_omega
  · rw [if_neg (not_lt.mpr hLast)]
    refine ⟨_, rfl, by rw [finish_recs]; rfl, ?_, fun hMore => absurd hMore (not_lt.mpr hLast),
      fun _ => ⟨finish_phase _, endsDone_finish _⟩⟩
    rw [finish_OUT, toList_recordWritten hOut]

/-! ## The mode-2 encoding of a chunk (R181, 44_mode2_encode R300 to R313) -/

/-- The chunk in hand is no longer than a chunk may be. -/
theorem m2Chunk_length_le (s : State) : (m2Chunk s).length ≤ 0x7FF0 := by
  rw [m2Chunk, slice_length]
  exact min_le_left _ _

/-- `t` is `s` with a chunk kept: `BS`, `CONT` and its record (R181). -/
structure ChunkKept (S z : List Byte) (s t : State) : Prop where
  phase : t.phase = .m2Split
  state : t.STATE = s.STATE
  segidx : t.fr.SEGIDX = s.fr.SEGIDX
  recs : t.recs = s.recs ++ [{ ulen := S.length, bt := 0, z := z }]
  bs : t.fr.BS.toNat = z.length + 2
  cont : t.fr.CONT = if s.recs.length + 1 < m2ChunkCount s.IN.len then 1 else 0

theorem endsInError_m2KeepChunk {S z : List Byte} {s : State} (h : 0xFFFF < z.length + 2) :
    EndsInError (.next (m2KeepChunk S z s)) .segmentTooLarge := by
  rw [m2KeepChunk, if_pos (show Config.m2OutLimit < _ from h)]
  exact endsInError_raise _ _

theorem chunkKept_m2KeepChunk {S z : List Byte} {s : State} (h : z.length + 2 ≤ 0xFFFF) : ChunkKept S z s (m2KeepChunk S z s) := by
  rw [m2KeepChunk, if_neg (show ¬ Config.m2OutLimit < _ from not_lt.mpr h)]
  exact ⟨rfl, rfl, rfl, rfl, Nat.mod_eq_of_lt (by omega), rfl⟩

theorem m2ScanStep_of_end {s : State} (h : (m2Chunk s).length ≤ s.m2e.POS) :
    m2ScanStep s = m2KeepChunk (m2Chunk s) (putItems (encode .m2End) s.m2e).z { s with m2e := putItems (encode .m2End) s.m2e } :=
  if_neg (not_lt.mpr h)

section
variable {s : State} (h : s.recs.length < m2ChunkCount s.IN.len)
include h

theorem m2SplitStep_of_reference (hPolicy : s.policy = .reference) : m2SplitStep s = m2StartScan (numbered s) := by
  refine (if_pos h).trans ((if_neg (not_le.mpr ((m2Chunk_length_le s).trans_lt (by decide)))).trans ?_)
  split
  next => rfl
  next h => cases hPolicy.symm.trans h

theorem m2SplitStep_of_anyConforming (hPolicy : s.policy = .anyConforming) : m2SplitStep s =
    let z := Config.freeM2Payload s.fresh (m2Chunk s)
    let u := { numbered s with fresh := s.fresh + 1 }
    if z.length + 2 ≤ 0xFFFF ∧ decodeM2Payload z = some (m2Chunk s) then m2KeepChunk (m2Chunk s) z u else m2StartScan u := by
  refine (if_pos h).trans ((if_neg (not_le.mpr ((m2Chunk_length_le s).trans_lt (by decide)))).trans ?_)
  split
  next h => cases hPolicy.symm.trans h
  next => rfl

end

/-- Settles O59: the end of a chunk's scan, and the split under both policies. -/
theorem m2ChunkKept : Obligations.M2ChunkKept := by
  refine ⟨fun s hs hp hEnd => ?_, fun s hs hp hLeft => ?_⟩
  · rw [step_m2Scan hs hp, m2ScanStep_of_end hEnd]
    refine ⟨endsInError_m2KeepChunk, fun hFits => ⟨_, rfl, ?_⟩⟩
    have h := chunkKept_m2KeepChunk (S := m2Chunk s) (s := { s with m2e := putItems (encode .m2End) s.m2e }) hFits
    exact ⟨h.phase, h.state, h.recs, h.bs, h.cont⟩
  · rw [step_m2Split hs hp]
    refine ⟨_, rfl, ?_⟩
    cases hPolicy : s.policy with
    | reference =>
      rw [m2SplitStep_of_reference hLeft hPolicy, if_neg (by simp)]
      exact ⟨rfl, rfl, rfl, rfl, rfl, rfl, rfl, rfl, rfl, rfl⟩
    | anyConforming =>
      rw [m2SplitStep_of_anyConforming hLeft hPolicy]
      by_cases hDec : (Config.freeM2Payload s.fresh (m2Chunk s)).length + 2 ≤ 0xFFFF ∧
          decodeM2Payload (Config.freeM2Payload s.fresh (m2Chunk s)) = some (m2Chunk s)
      · simp only [if_pos hDec, true_and]
        have h := chunkKept_m2KeepChunk (S := m2Chunk s) (s := { numbered s with fresh := s.fresh + 1 }) hDec.1
        exact ⟨h.state, h.segidx, h.phase, h.recs, h.bs, h.cont⟩
      · simp only [if_neg hDec, true_and]
        exact ⟨rfl, rfl, rfl, rfl, rfl, rfl, rfl, rfl, rfl, rfl⟩

/-! ## The mode-2 container (R181, R182, R185) -/

theorem m2SplitStep_of_all_kept {s : State} (h : m2ChunkCount s.IN.len ≤ s.recs.length) : m2SplitStep s = m2WriteContainer s :=
  if_neg (not_lt.mpr h)

/-- The body is the chunk records in order, each with its continuation byte. -/
theorem m2Body_eq (n k : Nat) (recs : List Rec) : m2Body n k recs =
    (recs.zipIdx k).flatMap fun c => u16le (BitVec.ofNat 16 (c.1.z.length + 2)) ++ c.1.z ++ [if c.2 + 1 < n then 1 else 0] := by
  induction recs generalizing k with
  | nil => rfl
  | cons r rs ih => rw [m2Body, ih, encodeBytes_m2ChunkRecord, contByte, List.zipIdx_cons, List.flatMap_cons]

theorem m2Body_length (n k : Nat) (recs : List Rec) : (m2Body n k recs).length = (recs.map fun r => r.z.length + 3).sum := by
  induction recs generalizing k with
  | nil => rfl
  | cons r rs ih =>
    simp only [m2Body, encodeBytes_m2ChunkRecord, List.length_append, u16le_length, List.length_singleton, ih, List.map_cons,
      List.sum_cons]
    omega

/-- The container's bytes. -/
def m2ContainerBytes (s : State) : List Byte :=
  let body := m2Body s.recs.length 0 s.recs
  encodeBytes (.m2ContainerHeader (BitVec.ofNat 32 (8 + body.length)) (BitVec.ofNat 32 s.IN.len) (BitVec.ofNat 32 s.recs.length) body)

theorem m2ContainerBytes_eq (s : State) : m2ContainerBytes s =
    u32le (BitVec.ofNat 32 (8 + (s.recs.map fun r => r.z.length + 3).sum)) ++ u32le (BitVec.ofNat 32 s.IN.len)
      ++ u32le (BitVec.ofNat 32 s.recs.length) ++ m2Body s.recs.length 0 s.recs := by
  rw [m2ContainerBytes, encodeBytes_m2ContainerHeader, m2Body_length]

theorem m2ContainerBytes_length (s : State) : (m2ContainerBytes s).length = 12 + (s.recs.map fun r => r.z.length + 3).sum := by
  simp only [m2ContainerBytes_eq, List.length_append, u32le_length, m2Body_length]

/-- What the container's fields can hold (R185). -/
def ContainerFits (s : State) : Prop :=
  8 + (s.recs.map fun r => r.z.length + 3).sum < 2 ^ 31 ∧ s.IN.len < 2 ^ 32 ∧ s.recs.length < 2 ^ 32

theorem endsInError_m2WriteContainer {s : State} (h : ¬ ContainerFits s) : EndsInError (.next (m2WriteContainer s)) .segmentTooLarge := by
  unfold ContainerFits at h
  rw [m2WriteContainer, m2Body_length, if_pos (by omega)]
  exact endsInError_raise _ _

theorem m2WriteContainer_of_fits {s : State} (h : ContainerFits s) :
    ∃ fr, m2WriteContainer s = finish { s with fr := fr, OUT := Space.ofList (m2ContainerBytes s) } := by
  obtain ⟨hCs, hIn, hNb⟩ := h
  rw [m2WriteContainer, if_neg (by rw [m2Body_length]; omega)]
  exact ⟨_, rfl⟩

/-- Settles O60: the container is the header and the body, and with it the command is done. -/
theorem m2ContainerWritten : Obligations.M2ContainerWritten := by
  intro s hs hp hCount hIn hNb _ hCs
  obtain ⟨fr, hWrite⟩ := m2WriteContainer_of_fits ⟨hCs, hIn, hNb⟩
  rw [step_m2Split hs hp, m2SplitStep_of_all_kept hCount, hWrite]
  refine ⟨_, rfl, finish_STATE _, finish_ERR _, ?_, ?_⟩
  · have hLen : (Space.ofList (m2ContainerBytes s)).len < 2 ^ 64 := by rw [ofList_len, m2ContainerBytes_length]; omega
    rw [finish_OUTLEN _ hLen, finish_OUT]
    exact Nat.mod_eq_of_lt hLen
  · rw [finish_OUT, toList_ofList, m2ContainerBytes_eq, m2Body_eq]

/-! ## What does not fit a container (R175, R185) -/

theorem endsInError_m3WriteHeader {s : State}
    (h : 2 ^ 32 ≤ s.IN.len ∨ 2 ^ 32 ≤ (s.recs.map fun r => r.z.length + 12).sum ∨ 2 ^ 32 ≤ s.recs.length) :
    EndsInError (.next (m3WriteHeader s)) .segmentTooLarge := by
  rw [m3WriteHeader, if_pos (by omega)]
  exact endsInError_raise _ _

/-- Settles O56: a record that does not fit makes the sum too large as well. -/
theorem oversizedBufferRejected : Obligations.OversizedBufferRejected := by
  refine fun s hs => ⟨fun hp hCount hLarge => ?_, fun hp hCount hLarge => ?_⟩
  · rw [step_m3Split hs hp, m3SplitStep_of_all_kept hCount]
    apply endsInError_m3WriteHeader
    obtain hIn | hSum | ⟨r, hr, hRec⟩ | ⟨r, hr, hRec⟩ | hNb := hLarge
    · exact .inl hIn
    · exact .inr (.inl hSum)
    · exact .inr (.inl (hRec.trans (size_le_sum 12 hr)))
    · have := size_le_sum 12 hr
      exact .inr (.inl (by omega))
    · exact .inr (.inr hNb)
  · rw [step_m2Split hs hp, m2SplitStep_of_all_kept hCount]
    exact endsInError_m2WriteContainer (by unfold ContainerFits; omega)

/-! ## The containers of the empty buffer (R173, R183) -/

theorem slice_of_empty {m : Space} (h : m.len = 0) (a n : Nat) : m.slice a n = [] :=
  List.eq_nil_of_length_eq_zero (by rw [slice_length]; omega)

/-- A step of a run. -/
theorem run_succ {s t : State} (k : Nat) (h : step s = .next t) : Host.Core.run core (k + 1) s = Host.Core.run core k t := by
  have h : core.step s = .next t := h
  simp only [Host.Core.run, h]

/-- The record of an empty segment. -/
def emptyRec : Rec := { ulen := 0, bt := 0, z := [] }

section
variable {s : State} (hs : s.turns = [])
include hs

/-- The empty buffer is one empty segment, and that is stored. -/
theorem step_split_empty (hp : s.phase = .m3Split) (hIn : s.IN.len = 0) (hRecs : s.recs = []) :
    step s = .next (keepRec emptyRec .m3Split (numbered s)) := by
  have hSeg : m3Segment s = [] := slice_of_empty hIn _ _
  have hLeft : s.recs.length < m3SegmentCount s.IN.len := by rw [hRecs]; exact m3SegmentCount_pos _
  rw [step_m3Split hs hp, m3SplitStep_of_short hLeft (by rw [hSeg]; decide), m3Kept, hSeg]
  rfl

theorem step_header_empty (hp : s.phase = .m3Split) (hIn : s.IN.len = 0) (hRecs : s.recs = [emptyRec]) :
    step s = .next (headerWritten s) := by
  have hCount : m3SegmentCount s.IN.len ≤ s.recs.length := by rw [hRecs, hIn]; decide
  rw [step_m3Split hs hp, m3SplitStep_of_all_kept hCount, m3WriteHeader_of_fits (by simp [hRecs]) (by simp [hIn])
    (by rw [hRecs]; decide)]

theorem step_record_empty (hp : s.phase = .m3Write) (hSegidx : s.fr.SEGIDX = 0) (hRecs : s.recs = [emptyRec]) :
    step s = .next (finish (recordWritten emptyRec s)) := by
  rw [step_m3Write hs hp, m3WriteStep_eq (r := emptyRec) (by rw [hRecs, hSegidx]; rfl), if_neg (by rw [hRecs, hSegidx]; decide)]

end

/-- The 32 bytes of the empty mode-3 container. -/
theorem toList_container_empty {s : State} (hIn : s.IN.len = 0) (hRecs : s.recs = [emptyRec]) :
    (recordWritten emptyRec (headerWritten s)).OUT.toList =
      [1, 0, 0, 0x80, 1, 0, 0, 0, 12, 0, 0, 0, 12, 0, 0, 0, 0, 0, 0, 0, 4, 0, 0, 0, 0, 0, 0, 0, 0, 0, 0, 0] := by
  rw [toList_recordWritten (headerWritten_wf s), toList_headerWritten]
  simp only [m3HeaderOf, hRecs, hIn]
  decide

/-- Settles O55: the empty segment, the header and the record of mode 3, and the header of mode 2. -/
theorem emptyInputContainers : Obligations.EmptyInputContainers := by
  refine ⟨fun s hs hp hRecs hIn => ?_, fun s hs hp hRecs hIn => ?_⟩
  · have hSplit := step_split_empty hs hp hIn hRecs
    obtain ⟨u, hu⟩ : ∃ u, keepRec emptyRec .m3Split (numbered s) = u := ⟨_, rfl⟩
    have hTurns : u.turns = [] := by rw [← hu]; exact hs
    have hPhase : u.phase = .m3Split := by rw [← hu]; rfl
    have hNone : u.IN.len = 0 := by rw [← hu]; exact hIn
    have hKept : u.recs = [emptyRec] := by rw [← hu, keepRec_recs, numbered, hRecs]; rfl
    have hHeader := step_header_empty hTurns hPhase hNone hKept
    have hRecord := step_record_empty (s := headerWritten u) (by rwa [headerWritten_turns]) (headerWritten_phase u)
      (by rw [headerWritten_fr]; rfl) (by rwa [headerWritten_recs])
    have hOut := toList_container_empty hNone hKept
    have hLen : (recordWritten emptyRec (headerWritten u)).OUT.len = 32 := by rw [← toList_length, hOut]; rfl
    refine ⟨finish (recordWritten emptyRec (headerWritten u)), ?_, finish_STATE _, finish_ERR _, ?_, ?_⟩
    · rw [run_succ 2 (hSplit.trans (congrArg _ hu)), run_succ 1 hHeader, run_succ 0 hRecord]
      rfl
    · rw [finish_OUTLEN _ (by rw [hLen]; decide), hLen]
      rfl
    · rw [finish_OUT, hOut]
  · obtain ⟨t, hStep, hState, hErr, hOutlen, hOut⟩ := m2ContainerWritten s hs hp (by rw [hIn]; exact Nat.zero_le _) (by omega)
      (by simp [hRecs]) (by simp [hRecs]) (by simp [hRecs])
    simp only [hRecs, hIn] at hOut
    have hLen : t.OUT.len = 12 := by rw [← toList_length, hOut]; rfl
    exact ⟨t, hStep, hState, hErr, BitVec.eq_of_toNat_eq (hOutlen.trans hLen), hOut⟩

end Sys2Proof.Containers
end

section
/-! The family 41_mode3_decode: which token the bytes at `IP` select, what the two tokens do, and where a segment and its output end. -/

namespace Sys2Proof.Mode3Decode

open Sys2Proof.Machine Sys2Proof.Safety Sys2Proof.Scope Sys2Proof.Reading Sys2Proof.Invariants Sys2Proof.Memory Sys2Proof.Framing

/-! ## The token at `IP` (R200 to R202) -/

theorem slice_cons {m : Space} {a : Nat} (n : Nat) (h : a < m.len) : m.slice a (n + 1) = m.get a :: m.slice (a + 1) n := by
  unfold Space.slice
  rw [show min (n + 1) (m.len - a) = min n (m.len - (a + 1)) + 1 by omega, List.range_succ_eq_map, List.map_cons, List.map_map]
  refine congrArg (m.get a :: ·) (List.map_congr_left fun i _ => ?_)
  exact congrArg m.get (by omega)

theorem take_slice (m : Space) (a : Nat) {k n : Nat} (h : k ≤ n) : (m.slice a n).take k = m.slice a k := by
  unfold Space.slice
  rw [← List.map_take, List.take_range, show min k (min n (m.len - a)) = min k (m.len - a) by omega]

theorem head?_slice (m : Space) (a n : Nat) : (m.slice a (n + 1)).head? = (m.slice a 1).head? := by
  rw [← take_slice m a (Nat.le_add_left 1 n), List.head?_take, if_neg Nat.one_ne_zero]

/-- The token a control pair and the bytes after it stand for (R202). -/
def pairToken (a b : Byte) (bs : List Byte) : Instr :=
  if a = 0 then .m3Lit b (bs.take b.toNat) else .m3Ref a b bs.head?

theorem decode_pair (a b : Byte) (bs : List Byte) : ∃ r, decode .m3Token (byteItems (a :: b :: bs)) = .ok (pairToken a b bs) r := by
  simp only [decode, decodeM3Token, byteItems_cons, takeByte_byte, bind_ok, takeUpTo_byteItems, takeMaybe_byteItems, pairToken]
  split
  · exact ⟨_, rfl⟩
  · exact ⟨_, rfl⟩

/-- The token the bytes at `IP` select. -/
def segmentToken (s : State) : Instr :=
  pairToken (s.SEG.get s.m3d.IP.toNat) (s.SEG.get (s.m3d.IP.toNat + 1)) (s.SEG.slice (s.m3d.IP.toNat + 2) 255)

theorem segmentToken_of_zero {s : State} (h : s.SEG.get s.m3d.IP.toNat = 0) : segmentToken s =
    .m3Lit (s.SEG.get (s.m3d.IP.toNat + 1)) (s.SEG.slice (s.m3d.IP.toNat + 2) (s.SEG.get (s.m3d.IP.toNat + 1)).toNat) := by
  rw [segmentToken, pairToken, if_pos h, take_slice _ _ (Nat.le_of_lt_succ (BitVec.isLt _))]

theorem segmentToken_of_ne_zero {s : State} (h : s.SEG.get s.m3d.IP.toNat ≠ 0) : segmentToken s =
    .m3Ref (s.SEG.get s.m3d.IP.toNat) (s.SEG.get (s.m3d.IP.toNat + 1)) (s.SEG.slice (s.m3d.IP.toNat + 2) 1).head? := by
  rw [segmentToken, pairToken, if_neg h, head?_slice]

/-- A token has at most 257 bytes: the pair and 255 more. -/
theorem decode_segmentItems {s : State} (h : s.m3d.IP.toNat + 2 ≤ s.SEG.len) :
    ∃ r, decode .m3Token (segmentItems s) = .ok (segmentToken s) r := by
  rw [segmentItems, longestToken, slice_cons 256 (by omega), slice_cons 255 (by omega)]
  exact decode_pair _ _ _

/-- One byte is no control pair (R201). -/
theorem decode_segmentItems_of_one {s : State} (h : s.m3d.IP.toNat + 1 = s.SEG.len) :
    decode .m3Token (segmentItems s) = .needByte := by
  have hNone : s.SEG.slice (s.m3d.IP.toNat + 1) 256 = [] := List.eq_nil_of_length_eq_zero (by rw [slice_length]; omega)
  rw [segmentItems, longestToken, slice_cons 256 (by omega), hNone]
  rfl

theorem step_m3Token {s : State} (hs : s.turns = []) (hp : s.phase = .m3Token) : step s = m3TokenStep s := by
  rw [step_of_no_turns hs, engineStep, hp]

theorem m3TokenStep_of_end {s : State} (h : s.SEG.len ≤ s.m3d.IP.toNat) : m3TokenStep s = .next (nextRecord s) := if_pos h

theorem m3TokenStep_of_one {s : State} (h : s.m3d.IP.toNat + 1 = s.SEG.len) : EndsInError (m3TokenStep s) .truncatedInput := by
  rw [m3TokenStep, if_neg (by omega)]
  exact runFetched_needByte (decode_segmentItems_of_one h) s

theorem m3TokenStep_of_pair {s : State} (h : s.m3d.IP.toNat + 2 ≤ s.SEG.len) : m3TokenStep s = exec (segmentToken s) s := by
  obtain ⟨r, hr⟩ := decode_segmentItems h
  rw [m3TokenStep, if_neg (by omega)]
  exact runFetched_ok hr _ s

/-- Settles O4: the step executes `segmentToken`, whose two forms these are. -/
theorem controlPairSelectsToken : Obligations.ControlPairSelectsToken := by
  intro s hs hp hPair
  rw [step_m3Token hs hp, m3TokenStep_of_pair hPair]
  exact ⟨fun h => by rw [segmentToken_of_zero h], fun h => by rw [segmentToken_of_ne_zero h]⟩

/-- Settles O17: the three places `IP` can be at: the end of SEG, its last byte, before that. -/
theorem segmentEndsAtItsLength : Obligations.SegmentEndsAtItsLength := by
  intro s hs hp
  rw [step_m3Token hs hp]
  refine ⟨fun hEnd hMore => ?_, fun hEnd hLast hOut => ?_, m3TokenStep_of_one, fun hPair => ?_⟩
  · rw [m3TokenStep_of_end hEnd, nextRecord, if_pos hMore]
  · rw [m3TokenStep_of_end hEnd, nextRecord, if_neg (by omega), finish_eq hOut]
  · obtain ⟨r, hr⟩ := decode_segmentItems hPair
    exact ⟨segmentToken s, r, hr, m3TokenStep_of_pair hPair⟩

/-! ## What the tokens do (R203 to R206) -/

theorem exec_m3Lit_of_short {n : Byte} {data : List Byte} (h : data.length < n.toNat) (s : State) :
    exec (.m3Lit n data) s = .next (raise .truncatedInput (m3ControlPair 0 n s)) := if_pos h

theorem exec_m3Lit_of_whole {n : Byte} {data : List Byte} (h : n.toNat ≤ data.length) (s : State) :
    exec (.m3Lit n data) s = .next (m3Emit data data.length (m3ControlPair 0 n s)) := if_neg (not_lt.mpr h)

/-- Settles O15: the two branches of M3_LIT, the bytes written by `setAll`. -/
theorem m3LitCopiesLiterals : Obligations.M3LitCopiesLiterals := by
  intro n data s hWf
  refine ⟨fun hShort => ?_, fun hWhole => ?_⟩
  · rw [exec_m3Lit_of_short hShort]
    exact endsInError_raise _ _
  · refine ⟨_, exec_m3Lit_of_whole hWhole.ge s, ?_, setAll_written hWf _ data, fun hEnd => ?_⟩
    · simp only [m3Emit, m3ControlPair, hWhole]
    · rw [m3Emit_OUT, ← hWhole]
      refine (setAll_len_of_le data hEnd.le).trans ?_
      rw [← hEnd]
      exact Nat.max_eq_right (Nat.le_add_right _ _)

/-- `s` with the control pair of an M3_REF read and its bytes copied. -/
def refCopied (a b : Byte) (s : State) : State := m3Copy (m3Distance b) a.toNat (m3ControlPair a b s)

theorem exec_m3Ref_of_far {a b : Byte} {s : State} (c : Option Byte) (h : s.m3d.OP < b.toNat + 1) :
    exec (.m3Ref a b c) s = .next (raise .badDistance (m3ControlPair a b s)) := if_pos h

section
variable {a b : Byte} {s : State} (hDist : b.toNat + 1 ≤ s.m3d.OP) (hEnd : s.m3d.BASE + s.m3d.OP ≤ s.OUT.len)
include hDist hEnd

theorem exec_m3Ref_none : exec (.m3Ref a b none) s = .next (raise .truncatedInput (refCopied a b s)) :=
  (if_neg (not_lt.mpr hDist)).trans (if_neg (not_lt.mpr hEnd))

theorem exec_m3Ref_some (c : Byte) : exec (.m3Ref a b (some c)) s = .next (m3Emit [c] 1 (refCopied a b s)) :=
  (if_neg (not_lt.mpr hDist)).trans (if_neg (not_lt.mpr hEnd))

end

/-- The copy and then one byte more: the last `d` bytes of `m` repeated `n` bytes long, `c`, and nothing else changed (R205, R206). -/
theorem copyBack_set_spec {m new : Space} {d pos n : Nat} {c : Byte} (hNew : new = (copyBack d n pos m).set (pos + n) c)
    (hWf : m.wf = true) (hd : 1 ≤ d) (hp : d ≤ pos) (hEnd : pos = m.len) :
    new.len = m.len + n + 1 ∧ (∀ i, i < n → new.get (pos + i) = m.get (pos - d + i % d)) ∧ new.get (pos + n) = c ∧
    ∀ x, x < pos ∨ pos + n + 1 ≤ x → new.get x = m.get x := by
  obtain ⟨hInside, hOutside⟩ := copyBack_copied hWf n hd hp
  subst hNew
  refine ⟨?_, fun i hi => ?_, get_set_same (copyBack_wf hWf _ _ _) _ _, fun x hx => ?_⟩
  · rw [set_len, copyBack_len m d n pos hEnd.le]
    omega
  · rw [get_set_other _ _ (by omega), hInside i hi]
  · rw [get_set_other _ _ (by omega), hOutside x (by omega)]

/-- Settles O16: the branches of M3_REF in their order, the bytes written by `copyBack` and the literal after them. -/
theorem m3RefRepeatsAndAppends : Obligations.M3RefRepeatsAndAppends := by
  intro a b s hWf
  refine ⟨fun c hFar => ?_, fun hDist hEnd => ⟨?_, fun c => ?_⟩⟩
  · rw [exec_m3Ref_of_far c hFar]
    exact endsInError_raise _ _
  · rw [exec_m3Ref_none hDist hEnd.le]
    exact endsInError_raise _ _
  · have hOut : (m3Emit [c] 1 (refCopied a b s)).OUT =
        (copyBack (b.toNat + 1) a.toNat (s.m3d.BASE + s.m3d.OP) s.OUT).set (s.m3d.BASE + s.m3d.OP + a.toNat) c := by
      rw [Nat.add_assoc]; rfl
    have hIp : s.m3d.IP + 2 + BitVec.ofNat 32 1 = s.m3d.IP + 3 := BitVec.add_assoc _ _ _
    refine ⟨_, exec_m3Ref_some hDist hEnd.le c, ?_, ?_⟩
    · rw [← hIp]; rfl
    · exact copyBack_set_spec hOut hWf (Nat.le_add_left 1 _) (by omega) hEnd

/-! ## How much a segment can write (R208) -/

/-- `IP` never wraps over a token that lies in the segment. -/
theorem ip_past_token {ip : BitVec 32} {n k : Nat} (h : ip.toNat + (k + 2) ≤ n) (hn : n < 2 ^ 32) :
    (ip + 2 + BitVec.ofNat 32 k).toNat = ip.toNat + (k + 2) := by bv_omega

theorem encode_m3Lit_length (n : Byte) (data : List Byte) : (encode (.m3Lit n data)).length = data.length + 2 := by
  simp [encode, byteItems]

theorem encode_m3Ref_length (a b c : Byte) : (encode (.m3Ref a b (some c))).length = 3 := rfl

/-- A literal run writes fewer bytes than it reads; a reference writes at most 256 for its 3, and 256 ≤ 86 * 3. -/
theorem exec_m3Token_expands {i : Instr} {s t : State} (hc : i.ctx = .m3Token)
    (hFits : s.m3d.IP.toNat + (encode i).length ≤ s.SEG.len) (hSeg : s.SEG.len < 2 ^ 32) (h : exec i s = .next t)
    (hErr : t.STATE ≠ .error) :
    s.m3d.IP.toNat < t.m3d.IP.toNat ∧ t.m3d.OP + 86 * s.m3d.IP.toNat ≤ s.m3d.OP + 86 * t.m3d.IP.toNat := by
  cases i with
  | m3Lit n data =>
    obtain rfl := execM3Lit_next h hErr
    rw [encode_m3Lit_length] at hFits
    simp only [m3Emit_m3d, m3ControlPair_m3d, ip_past_token hFits hSeg]
    omega
  | m3Ref a b c =>
    obtain ⟨-, v, rfl, rfl⟩ := execM3Ref_next h hErr
    rw [encode_m3Ref_length] at hFits
    have hCount := a.isLt
    simp only [m3Emit_m3d, m3Copy_m3d, m3ControlPair_m3d, List.length_singleton, ip_past_token (k := 1) hFits hSeg]
    omega
  | _ => cases hc

theorem nextRecord_phase_ne_m3Token (s : State) : (nextRecord s).phase ≠ .m3Token := by
  obtain ⟨-, h⟩ | ⟨-, h⟩ := nextRecord_cases s
  · rw [h]; simp
  · rw [h, finish_phase]; simp

/-- A step that stays in the segment has executed a token whose bytes lie in it. -/
theorem m3TokenStep_stays {s t : State} (h : m3TokenStep s = .next t) (ht : t.phase = .m3Token) :
    ∃ i, i.ctx = .m3Token ∧ s.m3d.IP.toNat + (encode i).length ≤ s.SEG.len ∧ exec i s = .next t := by
  obtain hEnd | hOne | hPair : s.SEG.len ≤ s.m3d.IP.toNat ∨ s.m3d.IP.toNat + 1 = s.SEG.len ∨ s.m3d.IP.toNat + 2 ≤ s.SEG.len := by
    omega
  · rw [m3TokenStep_of_end hEnd] at h
    cases h
    exact absurd ht (nextRecord_phase_ne_m3Token s)
  · obtain ⟨u, hu, -, -, hWaiting⟩ := m3TokenStep_of_one hOne
    cases hu.symm.trans h
    exact absurd (hWaiting.symm.trans ht) (by decide)
  · rw [m3TokenStep_of_pair hPair] at h
    obtain ⟨r, hr⟩ := decode_segmentItems hPair
    obtain ⟨hc, -⟩ := decode_readAt _ _ _ r hr
    have hLen := decode_m3Token_length hr
    rw [slice_length] at hLen
    exact ⟨segmentToken s, hc, by omega, h⟩

/-- Settles O44: a step that stays in the segment executes a token of it, without an error because the invariant is kept. -/
theorem segmentOutputBounded : Obligations.SegmentOutputBounded := by
  intro s t hInv hs hp hBound h ht
  obtain ⟨-, hStatus, -⟩ := invariantKept s t hInv h
  obtain ⟨hBusy, -⟩ := busy_of_running hStatus (by simp [ht])
  obtain ⟨-, -, -, -, ⟨-, hSegment⟩, -⟩ := hInv
  obtain ⟨-, hSeg, -⟩ := hSegment hp
  rw [step_m3Token hs hp] at h
  obtain ⟨i, hc, hFits, hExec⟩ := m3TokenStep_stays h ht
  obtain ⟨hIp, hOp⟩ := exec_m3Token_expands hc hFits hSeg hExec (by simp [hBusy])
  exact ⟨hIp, by omega⟩

end Sys2Proof.Mode3Decode
end

section
/-! The family 42_mode3_encode, the choices: what the two match finders find, which token a turn of a scan writes and how many bytes it
covers, and how far a scan goes. -/

namespace Sys2Proof.Matching

open Sys2Proof.Machine Sys2Proof.Safety Sys2Proof.Containers

/-! ## The first of the best candidates (42_mode3_encode R232, 44_mode2_encode R304) -/

/-- The search of both match finders: of the candidates from 1 to `n` the one of the greatest length, the first of equals; `init` when none is
longer. -/
def firstBest (len : Nat → Nat) (init : Nat × Nat) (n : Nat) : Nat × Nat :=
  (List.range' 1 n).foldl (fun best d => if best.1 < len d then (len d, d) else best) init

theorem bestMatch_eq (S : List Byte) (W : Nat) : bestMatch S W = firstBest (fun L => L * repeatCount S W L) (0, 0) (min W 255) := rfl

theorem longestMatch_eq (S : List Byte) (pos : Nat) :
    longestMatch S pos = firstBest (matchLength S pos) (1, 0) (min pos Config.m2Window) := rfl

section
variable (len : Nat → Nat) (init : Nat × Nat)

theorem firstBest_succ (n : Nat) : firstBest len init (n + 1) =
    if (firstBest len init n).1 < len (n + 1) then (len (n + 1), n + 1) else firstBest len init n := by
  rw [firstBest, List.range'_1_concat, List.foldl_append, Nat.add_comm 1 n]
  rfl

/-- No candidate is longer than the result. -/
theorem le_firstBest {n d : Nat} (hPos : 1 ≤ d) (hIn : d ≤ n) : len d ≤ (firstBest len init n).1 := by
  induction n with
  | zero => omega
  | succ n ih =>
    rw [firstBest_succ]
    obtain rfl | hBefore : d = n + 1 ∨ d ≤ n := by omega
    · split
      · exact le_rfl
      · omega
    · have := ih hBefore
      split
      · exact this.trans (Nat.le_of_lt ‹_›)
      · exact this

/-- The result is the initial one, or a candidate that is longer than it and than every candidate before. -/
theorem firstBest_cases (n : Nat) : firstBest len init n = init ∨
    ∃ d, 1 ≤ d ∧ d ≤ n ∧ firstBest len init n = (len d, d) ∧ init.1 < len d ∧ ∀ e, 1 ≤ e → e < d → len e < len d := by
  induction n with
  | zero => exact .inl rfl
  | succ n ih =>
    by_cases hNew : (firstBest len init n).1 < len (n + 1)
    · have hInit : init.1 ≤ (firstBest len init n).1 := by
        obtain h | ⟨d, -, -, h, hLong, -⟩ := ih
        · rw [h]
        · rw [h]; exact hLong.le
      refine .inr ⟨n + 1, Nat.le_add_left 1 n, le_rfl, ?_, hInit.trans_lt hNew, fun e hPos hBefore => ?_⟩
      · rw [firstBest_succ, if_pos hNew]
      · exact (le_firstBest len init hPos (Nat.le_of_lt_succ hBefore)).trans_lt hNew
    · rw [firstBest_succ, if_neg hNew]
      obtain h | ⟨d, hPos, hIn, h⟩ := ih
      · exact .inl h
      · exact .inr ⟨d, hPos, by omega, h⟩

end

/-! ## `best_match` (42_mode3_encode R232) -/

theorem largest_cases (p : Nat → Bool) (n : Nat) : largest p n = 0 ∨ p (largest p n) = true := by
  induction n with
  | zero => exact .inl rfl
  | succ n ih =>
    rw [largest]
    split
    · exact .inr ‹_›
    · exact ih

theorem le_largest {p : Nat → Bool} {n k : Nat} (hIn : k ≤ n) (hp : p k = true) : k ≤ largest p n := by
  induction n with
  | zero => exact hIn
  | succ n ih =>
    rw [largest]
    split
    · exact hIn
    · obtain rfl | hBefore : k = n + 1 ∨ k ≤ n := by omega
      · contradiction
      · exact ih hBefore

theorem repeatFits_iff (S : List Byte) (W L k : Nat) : repeatFits S W L k = true ↔ RepeatAt S W L k := by
  simp only [repeatFits, RepeatAt, Bool.and_eq_true, decide_eq_true_eq, List.all_eq_true, List.mem_range, beq_iff_eq, and_assoc]
  rfl

/-- No copy is a repeat wherever a byte is left. -/
theorem repeatAt_zero {S : List Byte} {W : Nat} (hW : W < S.length) (L : Nat) : RepeatAt S W L 0 :=
  ⟨by simp, by simpa using hW, by simp⟩

theorem repeatAt_repeatCount {S : List Byte} {W : Nat} (hW : W < S.length) (L : Nat) : RepeatAt S W L (repeatCount S W L) := by
  obtain h | h := largest_cases (repeatFits S W L) (Config.m3RunMax / L)
  · rw [repeatCount, h]
    exact repeatAt_zero hW L
  · exact (repeatFits_iff S W L _).mp h

theorem le_repeatCount {S : List Byte} {W L k : Nat} (hL : 1 ≤ L) (h : RepeatAt S W L k) : k ≤ repeatCount S W L := by
  obtain ⟨hBytes, -⟩ := id h
  have hIn : k ≤ Config.m3RunMax / L := (Nat.le_div_iff_mul_le hL).mpr ((Nat.mul_comm k L).trans_le hBytes)
  exact le_largest hIn ((repeatFits_iff S W L k).mpr h)

/-- What `best_match` finds: nothing, or copies of the smallest pattern that covers as much. -/
theorem bestMatch_cases {S : List Byte} {W : Nat} (hW : W < S.length) : bestMatch S W = (0, 0) ∨
    ∃ L k, bestMatch S W = (L * k, L) ∧ 1 ≤ L ∧ L ≤ min W 255 ∧ 1 ≤ L * k ∧ RepeatAt S W L k ∧
      ∀ M, 1 ≤ M → M < L → M * repeatCount S W M < L * k := by
  rw [bestMatch_eq]
  obtain h | ⟨L, hPos, hIn, h, hLong, hFirst⟩ := firstBest_cases (fun L => L * repeatCount S W L) (0, 0) (min W 255)
  · exact .inl h
  · exact .inr ⟨L, repeatCount S W L, h, hPos, hIn, hLong, repeatAt_repeatCount hW L, hFirst⟩

/-- Settles O51: `best_match` is the first of the best pattern lengths, each taken as often as it fits. -/
theorem bestMatchIsLongestRepeat : Obligations.BestMatchIsLongestRepeat := by
  intro S W hW
  have hCount {L k : Nat} (hL : 1 ≤ L) (hRepeat : RepeatAt S W L k) : L * k ≤ L * repeatCount S W L :=
    Nat.mul_le_mul_left L (le_repeatCount hL hRepeat)
  refine ⟨fun L k hPos hIn hRepeat => ?_, ?_⟩
  · rw [bestMatch_eq]
    exact (hCount hPos hRepeat).trans (le_firstBest (fun L => L * repeatCount S W L) (0, 0) hPos hIn)
  · obtain h | ⟨L, k, h, hPos, hIn, hLong, hRepeat, hFirst⟩ := bestMatch_cases hW
    · exact .inl h
    · rw [h]
      exact .inr ⟨hLong, hPos, hIn, ⟨k, rfl, hRepeat⟩, fun M j hM hLess hOther => (hCount hM hOther).trans_lt (hFirst M hM hLess)⟩

/-! ## The candidates of mode 2 (44_mode2_encode R303, R304) -/

theorem commonStart_spec (x y : List Byte) :
    commonStart x y ≤ x.length ∧ ∀ j, j < commonStart x y → x.getD j 0 = y.getD j 0 := by
  induction x generalizing y with
  | nil => exact ⟨Nat.zero_le _, fun j hj => absurd hj (Nat.not_lt_zero j)⟩
  | cons a x ih =>
    cases y with
    | nil => exact ⟨Nat.zero_le _, fun j hj => absurd hj (Nat.not_lt_zero j)⟩
    | cons b y =>
      obtain ⟨hLen, hEq⟩ := ih y
      rw [commonStart]
      split
      next hHead =>
        refine ⟨Nat.succ_le_succ hLen, fun j hj => ?_⟩
        cases j with
        | zero => exact hHead
        | succ j => exact hEq j (Nat.lt_of_succ_lt_succ hj)
      next => exact ⟨Nat.zero_le _, fun j hj => absurd hj (Nat.not_lt_zero j)⟩

/-- A byte of a part of the chunk. -/
theorem getD_take_drop (S : List Byte) (pos : Nat) {n j : Nat} (hj : j < n) : ((S.drop pos).take n).getD j 0 = S.getD (pos + j) 0 := by
  simp [hj]

theorem matchAt_matchLength {S : List Byte} {pos d : Nat} (hPos : pos ≤ S.length) (hd : d ≤ pos) :
    MatchAt S pos d (matchLength S pos d) := by
  obtain ⟨hLen, hEq⟩ := commonStart_spec ((S.drop pos).take Config.m2MatchMax) (S.drop (pos - d))
  have hBound : matchLength S pos d ≤ min 267 (S.length - pos) := by simpa [matchLength, Config.m2MatchMax] using hLen
  refine ⟨by omega, by omega, fun j hj => ?_⟩
  have hByte := hEq j hj
  rw [getD_take_drop S pos (show j < Config.m2MatchMax by simp only [Config.m2MatchMax]; omega)] at hByte
  rw [hByte, show pos + j - d = pos - d + j by omega]
  simp

/-- What `longest_match` finds: nothing, or a match inside the window. -/
theorem longestMatch_cases {S : List Byte} {pos : Nat} (hPos : pos ≤ S.length) : longestMatch S pos = (1, 0) ∨
    ∃ d n, longestMatch S pos = (n, d) ∧ 1 ≤ d ∧ d ≤ min pos 0x1FFF ∧ 2 ≤ n ∧ MatchAt S pos d n := by
  rw [longestMatch_eq]
  obtain h | ⟨d, hd, hIn, h, hLong, -⟩ := firstBest_cases (matchLength S pos) (1, 0) (min pos Config.m2Window)
  · exact .inl h
  · exact .inr ⟨d, matchLength S pos d, h, hd, hIn, hLong, matchAt_matchLength hPos (hIn.trans (Nat.min_le_left _ _))⟩

/-- The `n` bytes at `pos` are the one at `pos`, as rule R303 allows: at most 0xFFE and not past the end of the chunk. -/
def RunAt (S : List Byte) (pos n : Nat) : Prop :=
  n ≤ 0xFFE ∧ pos + n ≤ S.length ∧ ∀ j, j < n → S.getD (pos + j) 0 = S.getD pos 0

theorem runAt_runLength {S : List Byte} {pos : Nat} (hPos : pos ≤ S.length) : RunAt S pos (runLength S pos) := by
  have hPrefix := List.takeWhile_prefix (l := (S.drop pos).take Config.m2RunMax) fun v => v == S.getD pos 0
  have hBound : runLength S pos ≤ min 0xFFE (S.length - pos) := by simpa [runLength, Config.m2RunMax] using hPrefix.length_le
  refine ⟨by omega, by omega, fun j hj => ?_⟩
  have hByte := List.mem_takeWhile_imp (List.getElem_mem hj)
  rw [hPrefix.getElem hj, beq_iff_eq] at hByte
  simpa [show pos + j < S.length by omega] using hByte

/-! ## The token of a turn (44_mode2_encode R306 to R310) -/

/-- The tokens rule R306 chooses between at `pos`: the items and how many bytes they cover. -/
inductive TokenAt (S : List Byte) (pos : Nat) : List Item × Nat → Prop
  | run {n : Nat} : 14 ≤ n → RunAt S pos n → TokenAt S pos (rptItems (S.getD pos 0) n, n)
  | copy {d n : Nat} : 1 ≤ d → d ≤ min pos 0x1FFF → 2 ≤ n → MatchAt S pos d n → TokenAt S pos (refItems d n, n)
  | literal : pos < S.length → TokenAt S pos (encode (.m2Lit (S.getD pos 0)), 1)

/-- The token the scan writes at `pos`. -/
def chosenToken (S : List Byte) (pos : Nat) : List Item × Nat :=
  chooseToken S pos (runLength S pos) (longestMatch S pos).1 (longestMatch S pos).2

theorem tokenAt_chosenToken {S : List Byte} {pos : Nat} (hPos : pos < S.length) : TokenAt S pos (chosenToken S pos) := by
  rw [chosenToken, chooseToken]
  split_ifs with hRun hMatch
  · obtain ⟨hLong, -⟩ := hRun
    exact .run hLong (runAt_runLength hPos.le)
  · obtain h | ⟨d, n, h, hd, hIn, hLong, hAt⟩ := longestMatch_cases hPos.le
    · rw [h] at hMatch
      exact absurd hMatch (by decide)
    · rw [h]
      exact .copy hd hIn hLong hAt
  · exact .literal hPos

theorem TokenAt.covers {S : List Byte} {pos : Nat} {t : List Item × Nat} (h : TokenAt S pos t) : 1 ≤ t.2 ∧ pos + t.2 ≤ S.length := by
  cases h with
  | run hLong hRun =>
    obtain ⟨-, hEnd, -⟩ := hRun
    exact ⟨by omega, hEnd⟩
  | copy _ _ hLong hMatch =>
    obtain ⟨-, hEnd, -⟩ := hMatch
    exact ⟨by omega, hEnd⟩
  | literal hPos => exact ⟨le_rfl, hPos⟩

theorem m2ScanTurn_POS (S : List Byte) (r : M2EncRegs) : (m2ScanTurn S r).POS = r.POS + (chosenToken S r.POS).2 := rfl

/-! ## How far a scan goes (42_mode3_encode R231, R235, R238, 44_mode2_encode R302) -/

/-- The pending literals cost two bytes more than they are, and nothing when there are none. -/
theorem m3Flush_length_le (S : List Byte) (lo hi : Nat) : (m3Flush S lo hi).length ≤ 3 * (hi - lo) := by
  rw [m3Flush_eq]
  split
  · simp only [List.length_append, List.length_take, List.length_drop, List.length_cons, List.length_nil]
    omega
  · exact Nat.zero_le _

/-- What a scan of mode 3 keeps: the pending run below 255 and inside the segment, and three bytes written at most for every byte before it. -/
def ScanInv (S : List Byte) (r : M3EncRegs) : Prop :=
  r.LIT ≤ r.W ∧ r.W ≤ S.length ∧ r.W - r.LIT < 255 ∧ r.z.length ≤ 3 * r.LIT

/-- The three turns of a scan (R231, R233): a match, the 255th pending literal, another pending literal. -/
theorem m3ScanTurn_cases {S : List Byte} {r : M3EncRegs} (hW : r.W < S.length) :
    (∃ L k, m3ScanTurn S r =
        { W := r.W + L * k + 1, LIT := r.W + L * k + 1, BESTLEN := L * k, BESTL := L
          z := r.z ++ m3Flush S r.LIT r.W ++ [BitVec.ofNat 8 (L * k), BitVec.ofNat 8 (L - 1), S.getD (r.W + L * k) 0] } ∧
      1 ≤ L ∧ L ≤ min r.W 255 ∧ 2 ≤ L * k ∧ RepeatAt S r.W L k) ∨
    (∃ len pat, r.W + 1 - r.LIT = 255 ∧ m3ScanTurn S r =
        { W := r.W + 1, LIT := r.W + 1, BESTLEN := len, BESTL := pat, z := r.z ++ m3Flush S r.LIT (r.W + 1) }) ∨
    ∃ len pat, r.W + 1 - r.LIT ≠ 255 ∧ m3ScanTurn S r = { r with W := r.W + 1, BESTLEN := len, BESTL := pat } := by
  obtain ⟨len, pat, hBest⟩ : ∃ len pat, bestMatch S r.W = (len, pat) := ⟨_, _, rfl⟩
  obtain hLen | hLen := le_or_gt 2 len
  · obtain h | ⟨L, k, h, hL, hIn, -, hRepeat, -⟩ := bestMatch_cases hW
    · cases hBest.symm.trans h
      exact absurd hLen (by decide)
    · obtain ⟨rfl, rfl⟩ := Prod.mk.inj (h.symm.trans hBest)
      exact .inl ⟨L, k, m3ScanTurn_of_match hBest hLen, hL, hIn, hLen, hRepeat⟩
  · by_cases hRun : r.W + 1 - r.LIT = 255
    · exact .inr (.inl ⟨len, pat, hRun, m3ScanTurn_of_full_run hBest hLen hRun⟩)
    · exact .inr (.inr ⟨len, pat, hRun, m3ScanTurn_of_literal hBest hLen hRun⟩)

theorem m3ScanTurn_inv {S : List Byte} {r : M3EncRegs} (hInv : ScanInv S r) (hW : r.W < S.length) :
    ScanInv S (m3ScanTurn S r) ∧ r.W < (m3ScanTurn S r).W := by
  obtain ⟨hLit, -, hRun, hz⟩ := hInv
  obtain ⟨L, k, h, -, -, hLen, -, hEnd, -⟩ | ⟨len, pat, hFull, h⟩ | ⟨len, pat, hRoom, h⟩ := m3ScanTurn_cases hW
  · have := m3Flush_length_le S r.LIT r.W
    rw [h]
    simp only [ScanInv, List.length_append, List.length_cons, List.length_nil]
    omega
  · have := m3Flush_length_le S r.LIT (r.W + 1)
    rw [h]
    simp only [ScanInv, List.length_append]
    omega
  · rw [h]
    simp only [ScanInv]
    omega

theorem m3ScanEnd_length_le {S : List Byte} {r : M3EncRegs} (hW : r.W = S.length) (hLit : r.LIT ≤ r.W) (hz : r.z.length ≤ 3 * r.LIT) :
    (m3ScanEnd S r).length ≤ 3 * S.length := by
  have := m3Flush_length_le S r.LIT S.length
  rw [m3ScanEnd, List.length_append]
  omega

/-- Settles O52: the invariant of the mode-3 scan, and what the token of a mode-2 turn covers. -/
theorem scanStaysInBounds : Obligations.ScanStaysInBounds := by
  refine ⟨fun S r hW hLit hRun hz => ?_, fun S r => m3ScanEnd_length_le, fun S r hPos => ?_⟩
  · obtain ⟨⟨hLit', hW', hRun', hz'⟩, hOn⟩ := m3ScanTurn_inv ⟨hLit, hW.le, hRun, hz⟩ hW
    exact ⟨hOn, hW', hLit', hRun', hz'⟩
  · obtain ⟨hOne, hIn⟩ := (tokenAt_chosenToken hPos).covers
    rw [m2ScanTurn_POS]
    exact ⟨by omega, hIn⟩

end Sys2Proof.Matching
end

section
/-! The family 42_mode3_encode, the bit stream of mode 2: the reader gets the items back in the order the writer put them
(44_mode2_encode R300, R301). -/

namespace Sys2Proof.BitStream

open Sys2Proof.Machine Sys2Proof.Safety

/-! ## Bits of a byte sequence -/

/-- Bit `q` of a byte sequence, the lowest bit of the first byte first. -/
def bitOf (z : List Byte) (q : Nat) : Bool := (z.getD (q / 8) 0).getLsbD (q % 8)

theorem bitOf_append_left {z : List Byte} (y : List Byte) {q : Nat} (h : q < 8 * z.length) : bitOf (z ++ y) q = bitOf z q := by
  rw [bitOf, bitOf, List.getD_append _ _ _ _ (by omega)]

theorem bitOf_append_zeros {z : List Byte} (n : Nat) {q : Nat} (h : 8 * z.length ≤ q) : bitOf (z ++ List.replicate n 0) q = false := by
  rw [bitOf, List.getD_append_right _ _ _ _ (by omega)]
  simp [List.getD_eq_getElem?_getD, List.getElem?_replicate]
  split <;> simp

/-- Setting one bit leaves the others. -/
theorem bitOf_set_bit {z : List Byte} {p : Nat} (hp : p < 8 * z.length) (q : Nat) :
    bitOf (z.set (p / 8) (z.getD (p / 8) 0 ||| (1 <<< (p % 8)))) q = (bitOf z q || decide (q = p)) := by
  by_cases hByte : q / 8 = p / 8
  · have hBit : (BitVec.ofNat 8 (1 <<< (p % 8))).getLsbD (q % 8) = decide (q = p) := by
      have : q % 8 < 8 := Nat.mod_lt _ (by decide)
      rw [BitVec.getLsbD_ofNat, Nat.one_shiftLeft, Nat.testBit_two_pow, Bool.eq_iff_iff]
      simp
      omega
    rw [bitOf, bitOf, hByte, ← hBit, ← BitVec.getLsbD_or, List.getD_eq_getElem?_getD (l := z.set _ _),
      List.getElem?_set_self (by omega), Option.getD_some]
    rfl
  · have hOther : decide (q = p) = false := decide_eq_false (by omega)
    rw [hOther, Bool.or_false, bitOf, bitOf]
    simp [List.getD_eq_getElem?_getD, Ne.symm hByte]

/-- Two sequences of the same bits have the same byte. -/
theorem getD_eq_of_bitOf {y z : List Byte} {i : Nat} (h : ∀ k, k < 8 → bitOf y (8 * i + k) = bitOf z (8 * i + k)) :
    y.getD i 0 = z.getD i 0 := by
  refine BitVec.eq_of_getLsbD_eq fun k hk => ?_
  have := h k hk
  rwa [bitOf, bitOf, show (8 * i + k) / 8 = i by omega, show (8 * i + k) % 8 = k by omega] at this

/-! ## The writer (R300, R301) -/

/-- The first half of `put_bit`: a new group when the open one is full. -/
def openGroup (r : M2EncRegs) : M2EncRegs :=
  if r.GN = r.GCAP then { r with GPOS := r.z.length, z := r.z ++ [0, 0], GCAP := 16, GN := 0 } else r

/-- The second half of `put_bit`: the next bit of the open group is `b`. -/
def writeFlag (b : Bool) (r : M2EncRegs) : M2EncRegs :=
  { r with
    z := if b then r.z.set (r.GPOS + r.GN / 8) (r.z.getD (r.GPOS + r.GN / 8) 0 ||| (1 <<< (r.GN % 8))) else r.z
    GN := r.GN + 1 }

theorem putFlag_eq (b : Bool) (r : M2EncRegs) : putFlag b r = writeFlag b (openGroup r) := rfl

theorem openGroup_of_full {r : M2EncRegs} (h : r.GN = r.GCAP) :
    openGroup r = { r with GPOS := r.z.length, z := r.z ++ [0, 0], GCAP := 16, GN := 0 } := if_pos h

theorem openGroup_of_room {r : M2EncRegs} (h : r.GN ≠ r.GCAP) : openGroup r = r := if_neg h

@[simp] theorem putByte_z (v : Byte) (r : M2EncRegs) : (putByte v r).z = r.z ++ [v] := rfl
@[simp] theorem putByte_GN (v : Byte) (r : M2EncRegs) : (putByte v r).GN = r.GN := rfl
@[simp] theorem putByte_GCAP (v : Byte) (r : M2EncRegs) : (putByte v r).GCAP = r.GCAP := rfl
@[simp] theorem putByte_GPOS (v : Byte) (r : M2EncRegs) : (putByte v r).GPOS = r.GPOS := rfl
@[simp] theorem writeFlag_GN (b : Bool) (r : M2EncRegs) : (writeFlag b r).GN = r.GN + 1 := rfl
@[simp] theorem writeFlag_GCAP (b : Bool) (r : M2EncRegs) : (writeFlag b r).GCAP = r.GCAP := rfl
@[simp] theorem writeFlag_GPOS (b : Bool) (r : M2EncRegs) : (writeFlag b r).GPOS = r.GPOS := rfl
@[simp] theorem writeFlag_length (b : Bool) (r : M2EncRegs) : (writeFlag b r).z.length = r.z.length := by
  cases b <;> simp [writeFlag]
@[simp] theorem putItems_nil (r : M2EncRegs) : putItems [] r = r := rfl
@[simp] theorem putItems_flag (b : Bool) (xs : List Item) (r : M2EncRegs) :
    putItems (.flag b :: xs) r = putItems xs (writeFlag b (openGroup r)) := rfl
@[simp] theorem putItems_byte (v : Byte) (xs : List Item) (r : M2EncRegs) : putItems (.byte v :: xs) r = putItems xs (putByte v r) := rfl
theorem putItems_append (xs ys : List Item) (r : M2EncRegs) : putItems (xs ++ ys) r = putItems ys (putItems xs r) := List.foldl_append

/-- The open group lies in what was written, and its bits still to come are 0. -/
structure GroupInv (r : M2EncRegs) : Prop where
  room : r.GN ≤ r.GCAP
  cap : r.GCAP ≤ 16
  inside : 8 * r.GPOS + r.GCAP ≤ 8 * r.z.length
  clear : ∀ q, 8 * r.GPOS + r.GN ≤ q → q < 8 * r.GPOS + r.GCAP → bitOf r.z q = false

theorem groupInv_start (e : M2EncRegs) : GroupInv (m2ScanStart e) where
  room := by simp [m2ScanStart]
  cap := by simp [m2ScanStart]
  inside := by simp [m2ScanStart]
  clear q _ _ := bitOf_append_zeros (z := []) 2 (Nat.zero_le _)

theorem GroupInv.openGroup {r : M2EncRegs} (h : GroupInv r) : GroupInv (openGroup r) ∧ (openGroup r).GN < (openGroup r).GCAP := by
  by_cases hFull : r.GN = r.GCAP
  · rw [openGroup_of_full hFull]
    refine ⟨⟨Nat.zero_le _, le_rfl, by simp; omega, fun q hq _ => ?_⟩, Nat.zero_lt_succ 15⟩
    exact bitOf_append_zeros 2 (by simpa using hq)
  · rw [openGroup_of_room hFull]
    exact ⟨h, lt_of_le_of_ne h.room hFull⟩

theorem bitOf_writeFlag {r : M2EncRegs} (h : GroupInv r) (hRoom : r.GN < r.GCAP) (b : Bool) (q : Nat) :
    bitOf (writeFlag b r).z q = (bitOf r.z q || b && decide (q = 8 * r.GPOS + r.GN)) := by
  cases b with
  | false => simp [writeFlag]
  | true =>
    have := h.inside
    have hSet := bitOf_set_bit (show 8 * r.GPOS + r.GN < 8 * r.z.length by omega) q
    rw [show (8 * r.GPOS + r.GN) / 8 = r.GPOS + r.GN / 8 by omega, show (8 * r.GPOS + r.GN) % 8 = r.GN % 8 by omega] at hSet
    simpa [writeFlag] using hSet

theorem GroupInv.writeFlag {r : M2EncRegs} (h : GroupInv r) (hRoom : r.GN < r.GCAP) (b : Bool) : GroupInv (writeFlag b r) where
  room := hRoom
  cap := h.cap
  inside := by simpa using h.inside
  clear q hLow hHigh := by
    rw [writeFlag_GN, writeFlag_GPOS] at hLow
    rw [writeFlag_GPOS, writeFlag_GCAP] at hHigh
    rw [bitOf_writeFlag h hRoom, h.clear q (by omega) hHigh, decide_eq_false (by omega), Bool.and_false, Bool.or_false]

theorem GroupInv.putByte {r : M2EncRegs} (h : GroupInv r) (v : Byte) : GroupInv (putByte v r) where
  room := h.room
  cap := h.cap
  inside := by have := h.inside; simp; omega
  clear q hLow hHigh := by
    have := h.inside
    rw [putByte_GPOS] at hLow hHigh
    rw [putByte_GCAP] at hHigh
    rw [putByte_z, bitOf_append_left _ (by omega)]
    exact h.clear q hLow hHigh

/-! ## What was written stays -/

/-- What `r` has written stands in `z`: every bit but those of the open group still to come. -/
def Settled (r : M2EncRegs) (z : List Byte) : Prop :=
  r.z.length ≤ z.length ∧
  ∀ q, q < 8 * r.z.length → q < 8 * r.GPOS + r.GN ∨ 8 * r.GPOS + r.GCAP ≤ q → bitOf z q = bitOf r.z q

theorem Settled.of_putByte {r : M2EncRegs} {z : List Byte} {v : Byte} (h : Settled (putByte v r) z) : Settled r z := by
  obtain ⟨hLen, hBits⟩ := h
  simp only [putByte_z, List.length_append, List.length_singleton] at hLen hBits
  refine ⟨by omega, fun q hq hDone => ?_⟩
  rw [hBits q (by omega) hDone, bitOf_append_left _ hq]

theorem Settled.of_openGroup {r : M2EncRegs} {z : List Byte} (h : Settled (openGroup r) z) : Settled r z := by
  by_cases hFull : r.GN = r.GCAP
  · rw [openGroup_of_full hFull] at h
    obtain ⟨hLen, hBits⟩ := h
    simp only [List.length_append, List.length_cons, List.length_nil] at hLen hBits
    refine ⟨by omega, fun q hq _ => ?_⟩
    rw [hBits q (by omega) (.inl (by omega)), bitOf_append_left _ hq]
  · rwa [openGroup_of_room hFull] at h

section
variable {r : M2EncRegs} {z : List Byte} {b : Bool} (hInv : GroupInv r) (hRoom : r.GN < r.GCAP) (h : Settled (writeFlag b r) z)
include hInv hRoom h

theorem Settled.of_writeFlag : Settled r z := by
  obtain ⟨hLen, hBits⟩ := h
  simp only [writeFlag_length, writeFlag_GPOS, writeFlag_GN, writeFlag_GCAP] at hLen hBits
  refine ⟨hLen, fun q hq hDone => ?_⟩
  rw [hBits q hq (by omega), bitOf_writeFlag hInv hRoom, decide_eq_false (by omega), Bool.and_false, Bool.or_false]

/-- The bit just written is the one that stands there. -/
theorem bitOf_of_settled : bitOf z (8 * r.GPOS + r.GN) = b := by
  obtain ⟨-, hBits⟩ := h
  simp only [writeFlag_length, writeFlag_GPOS, writeFlag_GN, writeFlag_GCAP] at hBits
  have := hInv.inside
  rw [hBits _ (by omega) (by omega), bitOf_writeFlag hInv hRoom, hInv.clear _ le_rfl (by omega)]
  simp

end

theorem Settled.of_putItems {xs : List Item} {r : M2EncRegs} {z : List Byte} (hInv : GroupInv r) (h : Settled (putItems xs r) z) :
    Settled r z := by
  induction xs generalizing r with
  | nil => exact h
  | cons x xs ih =>
    cases x with
    | flag b =>
      obtain ⟨hOpen, hRoom⟩ := hInv.openGroup
      exact ((ih (hOpen.writeFlag hRoom b) h).of_writeFlag hOpen hRoom).of_openGroup
    | byte v => exact (ih (hInv.putByte v) h).of_putByte

theorem settled_self (r : M2EncRegs) : Settled r r.z := ⟨le_rfl, fun _ _ _ => rfl⟩

/-! ## The reader in step with the writer (43_mode2_decode R262, R264) -/

/-- The reader `d` stands in the finished `z` where the writer `r` stood: it has the bits of the open group still to come. -/
structure InStep (z : List Byte) (r : M2EncRegs) (d : M2DecRegs) : Prop where
  off : d.OFF.toNat = r.z.length
  nbits : d.NBITS.toNat + r.GN = r.GCAP
  bits : ∀ i, i < d.NBITS.toNat → d.FW.getLsbD i = bitOf z (8 * r.GPOS + r.GN + i)

section
variable {z : List Byte} {r : M2EncRegs} {d : M2DecRegs}

theorem InStep.takeFlagBit (h : InStep z r d) (hRoom : r.GN < r.GCAP) (b : Bool) : InStep z (writeFlag b r) (takeFlagBit d) := by
  have hBits := h.nbits
  have hLeft : (d.NBITS - 1).toNat = d.NBITS.toNat - 1 := by bv_omega
  refine ⟨by simpa using h.off, by simp; omega, fun i hi => ?_⟩
  rw [takeFlagBit_NBITS, hLeft] at hi
  rw [takeFlagBit_FW, BitVec.getLsbD_ushiftRight, h.bits _ (by omega), writeFlag_GPOS, writeFlag_GN]
  congr 1
  omega

theorem InStep.loadFlagWord (h : InStep z r d) (hNone : d.NBITS = 0) (hFits : r.z.length < 2 ^ 16 - 2) :
    InStep z (openGroup r) (loadFlagWord (z.getD (d.OFF.toNat + 1) 0 ++ z.getD d.OFF.toNat 0) d) := by
  have hOff := h.off
  have hFull : r.GN = r.GCAP := by simpa [hNone] using h.nbits
  rw [openGroup_of_full hFull]
  refine ⟨?_, rfl, fun i hi => ?_⟩
  · simp only [loadFlagWord_OFF, List.length_append, List.length_cons, List.length_nil]
    bv_omega
  · rw [loadFlagWord_FW, BitVec.getLsbD_append, hOff, bitOf]
    replace hi : i < 16 := hi
    split
    next hLow => rw [show (8 * r.z.length + 0 + i) / 8 = r.z.length by omega, show (8 * r.z.length + 0 + i) % 8 = i by omega]
    next hHigh =>
      rw [show (8 * r.z.length + 0 + i) / 8 = r.z.length + 1 by omega, show (8 * r.z.length + 0 + i) % 8 = i - 8 by omega]

theorem InStep.takeStreamByte (h : InStep z r d) (hFits : r.z.length < 2 ^ 16 - 2) (v : Byte) :
    InStep z (putByte v r) (takeStreamByte v d) := by
  have hOff := h.off
  refine ⟨?_, h.nbits, h.bits⟩
  simp only [takeStreamByte_OFF, putByte_z, List.length_append, List.length_singleton]
  bv_omega

end

/-- The reader in step with the writer reads what the writer goes on to write. -/
theorem readsBack_putItems {z : List Byte} {xs : List Item} {r : M2EncRegs} {d : M2DecRegs} (hInv : GroupInv r)
    (hStep : InStep z r d) (hDone : Settled (putItems xs r) z) (hFits : z.length < 2 ^ 16 - 2) :
    readsBack (Space.ofList z) xs d = true := by
  induction xs generalizing r d with
  | nil => rfl
  | cons x xs ih =>
    cases x with
    | flag b =>
      obtain ⟨hOpen, hRoom⟩ := hInv.openGroup
      have hWritten : Settled (writeFlag b (openGroup r)) z := hDone.of_putItems (hOpen.writeFlag hRoom b)
      obtain ⟨hLen, -⟩ := hWritten.of_writeFlag hOpen hRoom
      have hNext {d' : M2DecRegs} (hStep' : InStep z (openGroup r) d') :
          (d'.FW.getLsbD 0 == b) = true ∧ readsBack (Space.ofList z) xs (takeFlagBit d') = true := by
        have hCount := hStep'.nbits
        refine ⟨?_, ih (hOpen.writeFlag hRoom b) (hStep'.takeFlagBit hRoom b) hDone⟩
        rw [hStep'.bits 0 (by omega), Nat.add_zero, bitOf_of_settled hOpen hRoom hWritten, beq_self_eq_true]
      rw [readsBack]
      split
      next hNone =>
        have hFull : r.GN = r.GCAP := by simpa [hNone] using hStep.nbits
        have hOff := hStep.off
        rw [openGroup_of_full hFull] at hLen
        simp only [List.length_append, List.length_cons, List.length_nil] at hLen
        obtain ⟨hBit, hRest⟩ := hNext (hStep.loadFlagWord hNone (by omega))
        simp only [get_ofList, ofList_len, hBit, hRest, Bool.and_true, decide_eq_true_eq]
        omega
      next hSome =>
        have hSame : openGroup r = r := openGroup_of_room fun hFull => hSome (BitVec.eq_of_toNat_eq (by have := hStep.nbits; simp; omega))
        obtain ⟨hBit, hRest⟩ := hNext (hSame.symm ▸ hStep)
        rw [hBit, hRest, Bool.and_true]
    | byte v =>
      obtain ⟨hLen, hBits⟩ := hDone.of_putItems (hInv.putByte v)
      have := hInv.inside
      have hRoom := hInv.room
      simp only [putByte_z, putByte_GPOS, putByte_GN, putByte_GCAP, List.length_append, List.length_singleton] at hLen hBits
      have hByte : z.getD r.z.length 0 = v := by
        rw [getD_eq_of_bitOf (z := r.z ++ [v]) fun k hk => hBits _ (by omega) (by omega)]
        simp
      rw [readsBack, ih (hInv.putByte v) (hStep.takeStreamByte (by omega) v) hDone, hStep.off, get_ofList, hByte]
      simp
      omega

end Sys2Proof.BitStream
end

section
/-! The family 42_mode3_encode, decoding what a scan wrote: a part of a stream that carries a decoder from one byte of its output to another,
and the scan of a segment (42_mode3_encode R237). -/

namespace Sys2Proof.RoundTrip

open Sys2Proof.Machine Sys2Proof.Safety Sys2Proof.Encoding Sys2Proof.Mode3Decode Sys2Proof.Matching Sys2Proof.Containers Sys2Proof.Reading
  Sys2Proof.Scope Sys2Proof.Framing

/-! ## A space that holds the first bytes of a sequence -/

/-- The first `n` bytes of `m` are those of `S`. -/
structure Holds (m : Space) (S : List Byte) (n : Nat) : Prop where
  wf : m.wf = true
  len : n ≤ m.len
  bytes : ∀ i, i < n → m.get i = S.getD i 0

section
variable {m : Space} {S : List Byte} {n : Nat} (h : Holds m S n)
include h

theorem Holds.setAll {bs : List Byte} (hBytes : ∀ j, j < bs.length → bs.getD j 0 = S.getD (n + j) 0) :
    Holds (m.setAll n bs) S (n + bs.length) where
  wf := setAll_wf h.wf n bs
  len := by rw [setAll_len_of_le bs h.len]; exact Nat.le_max_right _ _
  bytes i hi := by
    by_cases hOld : i < n
    · rw [get_setAll_outside _ _ _ _ (.inl hOld), h.bytes i hOld]
    · obtain ⟨j, rfl⟩ : ∃ j, i = n + j := ⟨i - n, by omega⟩
      rw [get_setAll_inside h.wf _ _ _ (by omega), hBytes j (by omega)]

/-- A copy continues the sequence where the sequence repeats itself. -/
theorem Holds.copyBack {d k : Nat} (hd : 1 ≤ d) (hIn : d ≤ n) (hMatch : ∀ j, j < k → S.getD (n + j) 0 = S.getD (n + j - d) 0) :
    Holds (copyBack d k n m) S (n + k) where
  wf := copyBack_wf h.wf d k n
  len := by rw [copyBack_len m d k n h.len]; exact Nat.le_max_right _ _
  bytes i hi := by
    induction i using Nat.strongRecOn with
    | ind i ih =>
      by_cases hOld : i < n
      · rw [get_copyBack_outside _ _ _ _ _ (.inl hOld), h.bytes i hOld]
      · obtain ⟨j, rfl⟩ : ∃ j, i = n + j := ⟨i - n, by omega⟩
        rw [get_copyBack_back h.wf hd hIn ⟨by omega, hi⟩, ih (n + j - d) (by omega) (by omega), hMatch j (by omega)]

/-- The whole sequence is what a space holds of it. -/
theorem Holds.slice (hAll : n = S.length) : m.slice 0 n = S := by
  have := h.len
  refine List.ext_getElem (by simp; omega) fun i hi hi' => ?_
  have hByte := getD_slice (m := m) (a := 0) (n := n) (i := i) (by omega)
  rwa [Nat.zero_add, h.bytes i (by omega), List.getD_eq_getElem _ _ hi, List.getD_eq_getElem _ _ hi'] at hByte

end

/-! ## Runs of a decoder -/

/-- The loop of both decoders: steps while the decoder is inside its unit of work, at most `k` of them. -/
def stepsInside (inside : State → Prop) [DecidablePred inside] (decodeStep : State → Outcome) : Nat → State → Option State
  | 0, _ => none
  | k + 1, s =>
    if inside s then
      match decodeStep s with
      | .next t => stepsInside inside decodeStep k t
      | .fault _ => none
      | .refused _ => none
    else some s

section
variable {inside : State → Prop} [DecidablePred inside] {decodeStep : State → Outcome}

theorem stepsInside_of_next {s t : State} (hIn : inside s) (h : decodeStep s = .next t) (k : Nat) :
    stepsInside inside decodeStep (k + 1) s = stepsInside inside decodeStep k t := by
  rw [stepsInside, if_pos hIn, h]

theorem stepsInside_of_outside {s : State} (hOut : ¬ inside s) (k : Nat) : stepsInside inside decodeStep (k + 1) s = some s := if_neg hOut

theorem stepsInside_succ {k : Nat} {s u : State} (h : stepsInside inside decodeStep k s = some u) :
    stepsInside inside decodeStep (k + 1) s = some u := by
  induction k generalizing s with
  | zero => cases h
  | succ k ih =>
    by_cases hIn : inside s
    · cases hStep : decodeStep s with
      | next t =>
        rw [stepsInside_of_next hIn hStep] at h ⊢
        exact ih h
      | fault f => rw [stepsInside, if_pos hIn, hStep] at h; cases h
      | refused f => rw [stepsInside, if_pos hIn, hStep] at h; cases h
    · rw [stepsInside_of_outside hIn] at h ⊢
      exact h

/-- More steps do no harm. -/
theorem stepsInside_mono {j k : Nat} {s u : State} (hjk : j ≤ k) (h : stepsInside inside decodeStep j s = some u) :
    stepsInside inside decodeStep k s = some u := by
  induction hjk with
  | refl => exact h
  | step _ ih => exact stepsInside_succ ih

/-- `s` comes to `t` in at most `work s - work t` steps: what the loop gives from `t` it gives from `s`. -/
def Comes (inside : State → Prop) [DecidablePred inside] (decodeStep : State → Outcome) (work : State → Nat) (s t : State) : Prop :=
  ∀ k u, stepsInside inside decodeStep (k + work t) t = some u → stepsInside inside decodeStep (k + work s) s = some u

variable {work : State → Nat} {s t u : State}

theorem Comes.refl (s : State) : Comes inside decodeStep work s s := fun _ _ h => h

theorem Comes.trans (h : Comes inside decodeStep work s t) (h' : Comes inside decodeStep work t u) : Comes inside decodeStep work s u :=
  fun k v hv => h k v (h' k v hv)

theorem comes_of_next (hIn : inside s) (h : decodeStep s = .next t) (hLess : work t < work s) : Comes inside decodeStep work s t := by
  intro k u hu
  refine stepsInside_mono (show k + work t + 1 ≤ k + work s by omega) ?_
  rwa [stepsInside_of_next hIn h]

end

/-- The stream part `xs` carries a decoder from byte `a` of its output to byte `b`, whatever follows it: `place n rest s` says that `n` bytes
are out and `rest` is still to be read. -/
def Carries {ι : Type} (comes : State → State → Prop) (place : Nat → List ι → State → Prop) (a b : Nat) (xs : List ι) : Prop :=
  ∀ rest s, place a (xs ++ rest) s → ∃ t, comes s t ∧ place b rest t

section
variable {ι : Type} {inside : State → Prop} [DecidablePred inside] {decodeStep : State → Outcome} {work : State → Nat}
  {place : Nat → List ι → State → Prop} {a b c : Nat} {xs ys : List ι}

theorem Carries.nil : Carries (Comes inside decodeStep work) place a a [] := fun _ s h => ⟨s, .refl s, h⟩

theorem Carries.append (h : Carries (Comes inside decodeStep work) place a b xs) (h' : Carries (Comes inside decodeStep work) place b c ys) :
    Carries (Comes inside decodeStep work) place a c (xs ++ ys) := by
  intro rest s hs
  rw [List.append_assoc] at hs
  obtain ⟨t, hst, ht⟩ := h _ s hs
  obtain ⟨u, htu, hu⟩ := h' _ t ht
  exact ⟨u, hst.trans htu, hu⟩

end

/-- A scan that moves on while it is inside comes to the end, and keeps what its turns keep. -/
theorem exists_iterate_at_end {α : Type} {turn : α → α} {cursor : α → Nat} {stop : Nat} {P : α → Prop}
    (hBound : ∀ x, P x → cursor x ≤ stop)
    (hTurn : ∀ x, P x → cursor x < stop → P (turn x) ∧ cursor x < cursor (turn x)) {x : α} (hx : P x) :
    ∃ n, (∀ m, m < n → cursor (turn^[m] x) < stop) ∧ cursor (turn^[n] x) = stop ∧ P (turn^[n] x) := by
  induction hLeft : stop - cursor x using Nat.strongRecOn generalizing x with
  | ind k ih =>
    obtain hEnd | hInside := (hBound x hx).eq_or_lt
    · exact ⟨0, fun m hm => absurd hm (Nat.not_lt_zero m), hEnd, hx⟩
    · obtain ⟨hNext, hOn⟩ := hTurn x hx hInside
      have := hBound _ hNext
      obtain ⟨n, hBefore, hAt, hP⟩ := ih (stop - cursor (turn x)) (by omega) hNext rfl
      refine ⟨n + 1, fun m hm => ?_, hAt, hP⟩
      cases m with
      | zero => exact hInside
      | succ m => exact hBefore m (Nat.lt_of_succ_lt_succ hm)

/-! ## Mode 3: the segment loop (41_mode3_decode R200) -/

/-- The engine is inside a segment. -/
abbrev InsideSegment (s : State) : Prop := s.phase = .m3Token

theorem m3Loop_eq (k : Nat) (s : State) : m3Loop k s = stepsInside InsideSegment m3TokenStep k s := by
  induction k generalizing s with
  | zero => rfl
  | succ k ih =>
    rw [m3Loop, stepsInside]
    cases m3TokenStep s with
    | next t => exact if_congr Iff.rfl (ih t) rfl
    | fault f => rfl
    | refused f => rfl

/-- What is left of the segment. -/
def segmentLeft (s : State) : Nat := s.SEG.len - s.m3d.IP.toNat

/-- Inside a segment, the last of its container, with `zs` left to read. -/
structure Ahead (zs : List Byte) (s : State) : Prop where
  phase : s.phase = .m3Token
  last : s.fr.NB.toNat ≤ s.fr.SEGIDX.toNat + 1
  short : s.SEG.len < 2 ^ 32
  len : s.m3d.IP.toNat + zs.length = s.SEG.len
  bytes : ∀ i, i < zs.length → s.SEG.get (s.m3d.IP.toNat + i) = zs.getD i 0

/-- OUT is the first `n` bytes of `S`. -/
structure OutIs (S : List Byte) (n : Nat) (s : State) : Prop where
  base : s.m3d.BASE = 0
  op : s.m3d.OP = n
  holds : Holds s.OUT S n
  full : s.OUT.len = n

/-- Inside the segment with `n` bytes of `S` out and `zs` left to read. -/
def SegmentAt (S : List Byte) (n : Nat) (zs : List Byte) (s : State) : Prop := Ahead zs s ∧ OutIs S n s

section
variable {zs : List Byte} {s : State}

theorem Ahead.slice (h : Ahead zs s) (k : Nat) : s.SEG.slice s.m3d.IP.toNat k = zs.take k := by
  have hLen := h.len
  refine List.ext_getElem (by simp; omega) fun i hi hi' => ?_
  have hIn : i < min k zs.length := by simpa using hi'
  have hByte := getD_slice (m := s.SEG) (a := s.m3d.IP.toNat) (n := k) (i := i) (by omega)
  rw [h.bytes i (by omega), List.getD_eq_getElem _ _ hi, List.getD_eq_getElem _ _ (by omega : i < zs.length)] at hByte
  rw [hByte, List.getElem_take]

/-- The token that stands ahead is executed. -/
theorem Ahead.step {a b : Byte} (h : Ahead (a :: b :: zs) s) : m3TokenStep s = exec (pairToken a b (zs.take 255)) s := by
  obtain ⟨r, hr⟩ := decode_pair a b (zs.take 255)
  have hItems : segmentItems s = byteItems (a :: b :: zs.take 255) := by
    rw [segmentItems, h.slice]
    rfl
  have hLen := h.len
  rw [List.length_cons] at hLen
  rw [m3TokenStep, if_neg (by omega), hItems]
  exact runFetched_ok hr _ s

/-- Past a token of `k + 2` bytes the rest stands ahead. -/
theorem Ahead.past {cs : List Byte} {t : State} {k : Nat} (h : Ahead (cs ++ zs) s) (hCs : cs.length = k + 2)
    (hPhase : t.phase = s.phase) (hFr : t.fr = s.fr) (hSeg : t.SEG = s.SEG) (hIp : t.m3d.IP = s.m3d.IP + 2 + BitVec.ofNat 32 k) :
    Ahead zs t ∧ segmentLeft t < segmentLeft s := by
  have hLen := h.len
  rw [List.length_append] at hLen
  have hIp' : t.m3d.IP.toNat = s.m3d.IP.toNat + cs.length := by
    rw [hIp, hCs]
    exact ip_past_token (by omega) h.short
  refine ⟨⟨hPhase.trans h.phase, hFr ▸ h.last, hSeg ▸ h.short, by rw [hSeg]; omega, fun i hi => ?_⟩, ?_⟩
  · rw [hSeg, hIp', Nat.add_assoc, h.bytes _ (by rw [List.length_append]; omega), List.getD_append_right _ _ _ _ (Nat.le_add_right _ _),
      Nat.add_sub_cancel_left]
  · rw [segmentLeft, segmentLeft, hSeg]
    omega

end

section
variable {S : List Byte} {n : Nat} {s : State} (h : OutIs S n s)
include h

theorem OutIs.controlPair (a b : Byte) : OutIs S n (m3ControlPair a b s) := ⟨h.base, h.op, h.holds, h.full⟩

theorem OutIs.cursor : s.m3d.BASE + s.m3d.OP = n := by rw [h.base, h.op, Nat.zero_add]

theorem OutIs.emit {bs : List Byte} (used : Nat) (hBytes : ∀ j, j < bs.length → bs.getD j 0 = S.getD (n + j) 0) :
    OutIs S (n + bs.length) (m3Emit bs used s) where
  base := h.base
  op := by simp [h.op]
  holds := by rw [m3Emit_OUT, h.cursor]; exact h.holds.setAll hBytes
  full := by rw [m3Emit_OUT, h.cursor, setAll_len_of_le bs h.holds.len, h.full]; simp

theorem OutIs.copy {d k : Nat} (hd : 1 ≤ d) (hIn : d ≤ n) (hMatch : ∀ j, j < k → S.getD (n + j) 0 = S.getD (n + j - d) 0) :
    OutIs S (n + k) (m3Copy d k s) where
  base := h.base
  op := by simp [h.op]
  holds := by rw [m3Copy_OUT, h.cursor]; exact h.holds.copyBack hd hIn hMatch
  full := by rw [m3Copy_OUT, h.cursor, copyBack_len _ d k n h.holds.len, h.full]; simp

end

/-- Repeats of the bytes before continue the segment by what stands a pattern length back. -/
theorem repeatAt_back {S : List Byte} {W L k : Nat} (h : RepeatAt S W L k) (hIn : L ≤ W) :
    ∀ j, j < L * k → S.getD (W + j) 0 = S.getD (W + j - L) 0 := by
  obtain ⟨-, -, hBytes⟩ := h
  intro j hj
  rw [hBytes j hj]
  obtain hFirst | hLater := lt_or_ge j L
  · rw [Nat.mod_eq_of_lt hFirst, show W - L + j = W + j - L by omega]
  · rw [Nat.mod_eq_sub_mod hLater, ← hBytes (j - L) (by omega), show W + (j - L) = W + j - L by omega]

/-- A stretch of a segment's payload that brings the decoder from byte `a` of `S` to byte `b`. -/
abbrev CarriesM3 (S : List Byte) (a b : Nat) (zs : List Byte) : Prop :=
  Carries (Comes InsideSegment m3TokenStep segmentLeft) (SegmentAt S) a b zs

section
variable {S : List Byte}

/-- Literals (R235). -/
theorem carries_m3Flush {lo hi : Nat} (hRun : hi - lo ≤ 255) (hLe : lo ≤ hi) (hIn : hi ≤ S.length) :
    CarriesM3 S lo hi (m3Flush S lo hi) := by
  rw [m3Flush_eq]
  split
  case isFalse h =>
    obtain rfl : lo = hi := by omega
    exact .nil
  case isTrue h =>
    intro rest s ⟨hAhead, hOut⟩
    obtain ⟨k, rfl⟩ : ∃ k, hi = lo + k := ⟨hi - lo, by omega⟩
    rw [Nat.add_sub_cancel_left] at *
    have hBytes (j : Nat) (hj : j < k) := getD_take_drop S lo hj
    have hLen : ((S.drop lo).take k).length = k := by simp; omega
    generalize (S.drop lo).take k = bs at *
    subst hLen
    have hCount : (BitVec.ofNat 8 bs.length).toNat = bs.length := Nat.mod_eq_of_lt (by omega)
    have hToken : pairToken 0 (BitVec.ofNat 8 bs.length) ((bs ++ rest).take 255) = .m3Lit (BitVec.ofNat 8 bs.length) bs := by
      rw [pairToken, if_pos rfl, hCount, List.take_take, Nat.min_eq_left hRun, List.take_left]
    have hStep : m3TokenStep s = exec (pairToken 0 (BitVec.ofNat 8 bs.length) ((bs ++ rest).take 255)) s := hAhead.step
    rw [hToken, exec_m3Lit_of_whole hCount.le] at hStep
    obtain ⟨hNext, hLess⟩ := hAhead.past (k := bs.length) (t := m3Emit bs bs.length (m3ControlPair 0 _ s)) (by simp) rfl rfl rfl rfl
    exact ⟨_, comes_of_next hAhead.phase hStep hLess, hNext, (hOut.controlPair 0 _).emit bs.length hBytes⟩

/-- A reference and its literal (R232, R233). -/
theorem carries_m3Ref {W L k : Nat} (hL : 1 ≤ L) (hIn : L ≤ min W 255) (hLong : 2 ≤ L * k) (hRepeat : RepeatAt S W L k) :
    CarriesM3 S W (W + L * k + 1) [BitVec.ofNat 8 (L * k), BitVec.ofNat 8 (L - 1), S.getD (W + L * k) 0] := by
  obtain ⟨hCount, -, -⟩ := id hRepeat
  intro rest s ⟨hAhead, hOut⟩
  have hA : (BitVec.ofNat 8 (L * k)).toNat = L * k := Nat.mod_eq_of_lt (by omega)
  have hB : (BitVec.ofNat 8 (L - 1)).toNat + 1 = L := by
    have : (BitVec.ofNat 8 (L - 1)).toNat = L - 1 := Nat.mod_eq_of_lt (by omega)
    omega
  have hNe : BitVec.ofNat 8 (L * k) ≠ 0 := by
    intro hZero
    have : 0 = L * k := (congrArg BitVec.toNat hZero).symm.trans hA
    omega
  have hStep : m3TokenStep s = exec (.m3Ref (BitVec.ofNat 8 (L * k)) (BitVec.ofNat 8 (L - 1)) (some (S.getD (W + L * k) 0))) s := by
    rw [show m3TokenStep s = _ from hAhead.step, pairToken, if_neg hNe]
    rfl
  rw [exec_m3Ref_some (by rw [hB, hOut.op]; omega) (by rw [hOut.cursor, hOut.full])] at hStep
  obtain ⟨hNext, hLess⟩ := hAhead.past (k := 1) (t := m3Emit [S.getD (W + L * k) 0] 1
    (refCopied (BitVec.ofNat 8 (L * k)) (BitVec.ofNat 8 (L - 1)) s)) rfl rfl rfl rfl rfl
  refine ⟨_, comes_of_next hAhead.phase hStep hLess, hNext, ?_⟩
  rw [refCopied, m3Distance, hA, hB]
  have hCopied := (hOut.controlPair (BitVec.ofNat 8 (L * k)) (BitVec.ofNat 8 (L - 1))).copy hL (by omega) (repeatAt_back hRepeat (by omega))
  refine hCopied.emit (bs := [S.getD (W + L * k) 0]) 1 fun j hj => ?_
  obtain rfl : j = 0 := by simpa using hj
  rfl

/-- What the scan of a segment keeps: the payload so far brings the decoder to the first pending literal. -/
def ScanDecodes (S : List Byte) (r : M3EncRegs) : Prop := ScanInv S r ∧ CarriesM3 S 0 r.LIT r.z

theorem m3ScanTurn_decodes {r : M3EncRegs} (h : ScanDecodes S r) (hW : r.W < S.length) :
    ScanDecodes S (m3ScanTurn S r) ∧ r.W < (m3ScanTurn S r).W := by
  obtain ⟨hInv, hCarries⟩ := h
  obtain ⟨hInv', hOn⟩ := m3ScanTurn_inv hInv hW
  refine ⟨⟨hInv', ?_⟩, hOn⟩
  obtain ⟨hLit, -, hRun, -⟩ := hInv
  obtain ⟨L, k, h, hL, hIn, hLong, hRepeat⟩ | ⟨len, pat, hFull, h⟩ | ⟨len, pat, -, h⟩ := m3ScanTurn_cases hW
  · rw [h]
    exact (hCarries.append (carries_m3Flush hRun.le hLit hW.le)).append (carries_m3Ref hL hIn hLong hRepeat)
  · rw [h]
    exact hCarries.append (carries_m3Flush hFull.le (hLit.trans (Nat.le_succ _)) hW)
  · rw [h]
    exact hCarries

/-- The state the decoder of a payload starts in. -/
def segmentStart (z : List Byte) : State :=
  { State.reset with
    STATE := .busy, phase := .m3Token, SEG := Space.ofList z, fr := { FramerRegs.zero with NB := 1 } }

theorem segmentAt_segmentStart {z : List Byte} (hz : z.length < 2 ^ 32) : SegmentAt S 0 z (segmentStart z) where
  left :=
    { phase := rfl
      last := le_refl 1
      short := by simpa [segmentStart] using hz
      len := by simp [segmentStart, State.reset]
      bytes := fun i _ => by simp [segmentStart, State.reset, get_ofList] }
  right :=
    { base := rfl
      op := rfl
      holds := ⟨rfl, Nat.zero_le _, fun i hi => absurd hi (Nat.not_lt_zero i)⟩
      full := rfl }

/-- A payload that brings the decoder to the end of the segment decodes to the segment. -/
theorem decodeM3Payload_of_carries {z : List Byte} (hz : z.length < 2 ^ 32) (h : CarriesM3 S 0 S.length z) :
    decodeM3Payload z = some S := by
  obtain ⟨t, hComes, hAhead, hOut⟩ := h [] (segmentStart z) (by rw [List.append_nil]; exact segmentAt_segmentStart hz)
  have hEnd : t.SEG.len = t.m3d.IP.toNat := hAhead.len.symm
  have hStep : m3TokenStep t = .next (finish t) := by
    have := hAhead.last
    rw [m3TokenStep_of_end hEnd.le, nextRecord, if_neg (by omega)]
  have hLoop : stepsInside InsideSegment m3TokenStep (2 + segmentLeft t) t = some (finish t) := by
    rw [segmentLeft, hEnd, Nat.sub_self, stepsInside_of_next hAhead.phase hStep, stepsInside_of_outside (by simp)]
  have hStart : segmentLeft (segmentStart z) = z.length := by simp [segmentLeft, segmentStart, State.reset]
  have hRun := hComes 2 _ hLoop
  rw [hStart, Nat.add_comm, ← m3Loop_eq] at hRun
  unfold decodeM3Payload
  split
  next u hu =>
    cases hu.symm.trans hRun
    rw [if_pos (finish_STATE t), finish_OUT, Space.toList, hOut.full, hOut.holds.slice rfl]
  next hu => cases hu.symm.trans hRun

/-- The mode-3 half of O53: the scan comes to the end of the segment, and its payload decodes to it. -/
theorem m3Scan_decodes (hS : S.length ≤ 0x40000) : ∃ n, (∀ m, m < n → ((m3ScanTurn S)^[m] m3ScanStart).W < S.length) ∧
    ((m3ScanTurn S)^[n] m3ScanStart).W = S.length ∧
    decodeM3Payload (m3ScanEnd S ((m3ScanTurn S)^[n] m3ScanStart)) = some S := by
  have hStart : ScanDecodes S m3ScanStart := ⟨⟨le_rfl, Nat.zero_le _, by decide, Nat.zero_le _⟩, .nil⟩
  obtain ⟨n, hBefore, hEnd, ⟨hLit, -, hRun, hz⟩, hCarries⟩ :=
    exists_iterate_at_end (cursor := M3EncRegs.W) (fun _ ⟨⟨_, hW, _⟩, _⟩ => hW) (fun _ => m3ScanTurn_decodes) hStart
  have hLen := m3ScanEnd_length_le hEnd hLit hz
  refine ⟨n, hBefore, hEnd, decodeM3Payload_of_carries (by omega) (hCarries.append (carries_m3Flush ?_ ?_ le_rfl))⟩
  · omega
  · omega

end

end Sys2Proof.RoundTrip
end

section
/-! The family 42_mode3_encode, the round trip of mode 2: the reader of a chunk is handed the tokens the scan wrote, and executing them gives
the chunk back (44_mode2_encode R302, R312, R313). -/

namespace Sys2Proof.RoundTrip

open Sys2Proof.Machine Sys2Proof.Safety Sys2Proof.Scope Sys2Proof.Reading Sys2Proof.Invariants Sys2Proof.Registers Sys2Proof.Memory
  Sys2Proof.Encoding Sys2Proof.Framing Sys2Proof.Mode3Decode Sys2Proof.Matching Sys2Proof.BitStream

/-! ## The chunk's loop (43_mode2_decode R262 to R265) -/

/-- The engine is decoding a chunk. -/
abbrev InsideChunk (s : State) : Prop := s.phase = .m2Start ∨ s.phase = .m2Token ∨ s.phase = .m2Length

theorem m2Loop_eq (k : Nat) (s : State) : m2Loop k s = stepsInside InsideChunk m2DecodeStep k s := by
  induction k generalizing s with
  | zero => rfl
  | succ k ih =>
    rw [m2Loop, stepsInside]
    cases m2DecodeStep s with
    | next t => exact if_congr Iff.rfl (ih t) rfl
    | fault f => rfl
    | refused f => rfl

/-- The decoding of a chunk comes from `s` to `t`. -/
abbrev ComesM2 (s t : State) : Prop := Comes InsideChunk m2DecodeStep chunkWork s t

theorem comesM2_of_read {c : Ctx} {s t : State} (hAt : AtToken c s) (h : m2ReadStep c s = .next t) (hLess : chunkWork t < chunkWork s) :
    ComesM2 s t := by
  refine comes_of_next ?_ ?_ hLess
  · obtain ⟨hp, -⟩ | ⟨hp, -⟩ := hAt
    · exact .inr (.inl hp)
    · exact .inr (.inr hp)
  · obtain ⟨hp, rfl⟩ | ⟨hp, rfl⟩ := hAt
    · rw [m2DecodeStep, hp, h]
    · rw [m2DecodeStep, hp, h]

/-! ## Reading the items of a token -/

section
variable {c : Ctx} {s : State} (hAt : AtToken c s)
include hAt

theorem comes_takeFlagBit (hNeed : decode c s.m2d.tok = .needFlag) (hSome : s.m2d.NBITS ≠ 0) :
    ComesM2 s { s with m2d := takeFlagBit s.m2d } := by
  refine comesM2_of_read hAt (by rw [m2ReadStep, hNeed, readFlag, if_neg hSome]) ?_
  have : 0 < s.m2d.NBITS.toNat := by bv_omega
  have hLeft : (s.m2d.NBITS - 1).toNat = s.m2d.NBITS.toNat - 1 := by bv_omega
  simp only [chunkWork, takeFlagBit_OFF, takeFlagBit_NBITS, takeFlagBit_tok, hLeft, List.length_append, List.length_singleton]
  omega

/-- The flag word at `OFF`. -/
theorem comes_loadFlagWord (hNeed : decode c s.m2d.tok = .needFlag) (hNone : s.m2d.NBITS = 0) (hShort : s.CHUNK.len < 2 ^ 16)
    (hFits : s.m2d.OFF.toNat + 2 ≤ s.CHUNK.len) :
    ComesM2 s { s with m2d := loadFlagWord (s.CHUNK.get (s.m2d.OFF.toNat + 1) ++ s.CHUNK.get s.m2d.OFF.toNat) s.m2d } := by
  have hSlice : s.CHUNK.slice s.m2d.OFF.toNat 2 = [s.CHUNK.get s.m2d.OFF.toNat, s.CHUNK.get (s.m2d.OFF.toNat + 1)] := by
    rw [slice_cons 1 (by omega), slice_cons 0 (by omega)]
    rfl
  have hStep := m2ReadStep_flagWord hNeed hNone (hSlice ▸ decode_m2FlagWord_bytes _ _)
  refine comesM2_of_read hAt hStep ?_
  have hOff : (s.m2d.OFF + 2).toNat = s.m2d.OFF.toNat + 2 := by bv_omega
  simp only [chunkWork, loadFlagWord_OFF, loadFlagWord_NBITS, loadFlagWord_tok, hOff, hNone]
  rw [show BitVec.toNat (16 : BitVec 5) = 16 from rfl]
  omega

theorem comes_takeStreamByte (hNeed : decode c s.m2d.tok = .needByte) (hShort : s.CHUNK.len < 2 ^ 16)
    (hFits : s.m2d.OFF.toNat < s.CHUNK.len) :
    ComesM2 s { s with m2d := takeStreamByte (s.CHUNK.get s.m2d.OFF.toNat) s.m2d } := by
  refine comesM2_of_read hAt (by rw [m2ReadStep, hNeed, readByte, slice_one, if_pos hFits]) ?_
  have hOff : (s.m2d.OFF + 1).toNat = s.m2d.OFF.toNat + 1 := by bv_omega
  simp only [chunkWork, takeStreamByte_OFF, takeStreamByte_NBITS, takeStreamByte_tok, hOff, List.length_append, List.length_singleton]
  omega

end

/-- The decoder lacks a flag bit. -/
def wantsFlag : Take Instr → Bool
  | .needFlag => true
  | .ok _ _ | .needByte | .wrongKind => false

/-- The decoder lacks a byte. -/
def wantsByte : Take Instr → Bool
  | .needByte => true
  | .ok _ _ | .needFlag | .wrongKind => false

theorem wantsFlag_iff {t : Take Instr} : wantsFlag t = true ↔ t = .needFlag := by cases t <;> simp [wantsFlag]

theorem wantsByte_iff {t : Take Instr} : wantsByte t = true ↔ t = .needByte := by cases t <;> simp [wantsByte]

/-- The decoder that holds `tok` asks for these items one after the other, each by its kind (R106). -/
def asksFor (c : Ctx) : List Item → List Item → Bool
  | _, [] => true
  | tok, .flag b :: xs => wantsFlag (decode c tok) && asksFor c (tok ++ [.flag b]) xs
  | tok, .byte v :: xs => wantsByte (decode c tok) && asksFor c (tok ++ [.byte v]) xs

/-- The decoder asks for the items of a token in the order they stand in. -/
theorem asksFor_encode {i : Instr} (hCtx : i.ctx = .m2Token ∨ i.ctx = .m2Length) (hWf : WellFormed i = true) :
    asksFor i.ctx [] (encode i) = true := by
  cases i with
  | m2Lit c | m2Sref d | m2Lref h lo | m2Aref lo | m2End | len2 | len3 | len4 | len5 | len6to13 x | len14to269 x => rfl
  | m2Rpts lo v c | m2Rptl lo v x c =>
    obtain rfl | rfl : lo = 1 ∨ lo = 2 := by simpa [WellFormed] using hWf
    · rfl
    · rfl
  | _ => obtain h | h := hCtx <;> cases h

theorem encode_ne_nil {i : Instr} (hCtx : i.ctx = .m2Token ∨ i.ctx = .m2Length) (hWf : WellFormed i = true) : encode i ≠ [] := by
  intro hNil
  have h := decodeInvertsEncode i hWf
  rw [hNil] at h
  obtain hc | hc := hCtx
  · rw [hc] at h; cases h
  · rw [hc] at h; cases h

/-- Reading the items of a token: the reader's registers move past them, and hold them. -/
theorem comes_items {c : Ctx} {s : State} {xs rest : List Item} (hAt : AtToken c s) (hShort : s.CHUNK.len < 2 ^ 16)
    (hAsks : asksFor c s.m2d.tok xs = true) (hReads : readsBack s.CHUNK (xs ++ rest) s.m2d = true) :
    ∃ regs, ComesM2 s { s with m2d := regs } ∧ regs.tok = s.m2d.tok ++ xs ∧ regs.OPOS = s.m2d.OPOS ∧ regs.DIST = s.m2d.DIST ∧
      readsBack s.CHUNK rest regs = true := by
  induction xs generalizing s with
  | nil => exact ⟨s.m2d, .refl s, (List.append_nil _).symm, rfl, rfl, hReads⟩
  | cons x xs ih =>
    -- One item read, the others follow.
    have hOn {regs : M2DecRegs} (hFirst : ComesM2 s { s with m2d := regs }) (hTok : regs.tok = s.m2d.tok ++ [x])
        (hOpos : regs.OPOS = s.m2d.OPOS) (hDist : regs.DIST = s.m2d.DIST) (hMore : asksFor c regs.tok xs = true)
        (hRest : readsBack s.CHUNK (xs ++ rest) regs = true) :
        ∃ regs, ComesM2 s { s with m2d := regs } ∧ regs.tok = s.m2d.tok ++ x :: xs ∧ regs.OPOS = s.m2d.OPOS ∧
          regs.DIST = s.m2d.DIST ∧ readsBack s.CHUNK rest regs = true := by
      obtain ⟨regs', hNext, hTok', hOpos', hDist', hRest'⟩ := ih (s := { s with m2d := regs }) hAt hShort hMore hRest
      refine ⟨regs', hFirst.trans hNext, ?_, hOpos'.trans hOpos, hDist'.trans hDist, hRest'⟩
      rw [hTok', hTok, List.append_assoc, List.singleton_append]
    cases x with
    | flag b =>
      simp only [asksFor, Bool.and_eq_true, wantsFlag_iff] at hAsks
      obtain ⟨hNeed, hMore⟩ := hAsks
      rw [List.cons_append, readsBack] at hReads
      split at hReads
      next hNone =>
        simp only [Bool.and_eq_true, decide_eq_true_eq, beq_iff_eq] at hReads
        obtain ⟨⟨hFits, rfl⟩, hRest⟩ := hReads
        have hWord := comes_loadFlagWord hAt hNeed hNone hShort hFits
        exact hOn (hWord.trans (comes_takeFlagBit (s := { s with m2d := _ }) hAt hNeed (by simp))) rfl rfl rfl hMore hRest
      next hSome =>
        simp only [Bool.and_eq_true, beq_iff_eq] at hReads
        obtain ⟨rfl, hRest⟩ := hReads
        exact hOn (comes_takeFlagBit hAt hNeed hSome) rfl rfl rfl hMore hRest
    | byte v =>
      simp only [asksFor, Bool.and_eq_true, wantsByte_iff] at hAsks
      obtain ⟨hNeed, hMore⟩ := hAsks
      simp only [List.cons_append, readsBack, Bool.and_eq_true, decide_eq_true_eq, beq_iff_eq] at hReads
      obtain ⟨⟨hFits, rfl⟩, hRest⟩ := hReads
      exact hOn (comes_takeStreamByte hAt hNeed hShort hFits) rfl rfl rfl hMore hRest

/-! ## Executing a token -/

/-- The reader goes on from its own registers alone. -/
theorem readsBack_congr {m : Space} {xs : List Item} {r d : M2DecRegs} (hFw : d.FW = r.FW) (hNbits : d.NBITS = r.NBITS)
    (hOff : d.OFF = r.OFF) : readsBack m xs d = readsBack m xs r := by
  induction xs generalizing r d with
  | nil => rfl
  | cons x xs ih =>
    cases x with
    | flag b =>
      have hTaken : readsBack m xs (takeFlagBit d) = readsBack m xs (takeFlagBit r) := ih (by simp [hFw]) (by simp [hNbits]) hOff
      have hLoaded (w : BitVec 16) : readsBack m xs (takeFlagBit (loadFlagWord w d)) = readsBack m xs (takeFlagBit (loadFlagWord w r)) :=
        ih rfl rfl (by simp [hOff])
      simp only [readsBack, hNbits, hOff, hFw, loadFlagWord_FW, hTaken, hLoaded]
    | byte v =>
      have hTaken : readsBack m xs (takeStreamByte v d) = readsBack m xs (takeStreamByte v r) := ih hFw hNbits (by simp [hOff])
      simp only [readsBack, hOff, hTaken]

/-- In a chunk at a place of the phase `p`, with no item held: `n` bytes of `S` are in SCRATCH, and the reader has the items `xs` before it. -/
structure ChunkAt (S : List Byte) (p : Phase) (n : Nat) (xs : List Item) (s : State) : Prop where
  phase : s.phase = p
  tok : s.m2d.tok = []
  short : s.CHUNK.len < 2 ^ 16
  reads : readsBack s.CHUNK xs s.m2d = true
  opos : s.m2d.OPOS.toNat = n
  holds : Holds s.SCRATCH S n

section
variable {S : List Byte} {p q : Phase} {n : Nat} {xs : List Item} {s t : State}

/-- A token or length code is read and then executed, in some state `u` that stands behind it. -/
theorem ChunkAt.token {i : Instr} (h : ChunkAt S p n (encode i ++ xs) s) (hPlace : p = .m2Token ∧ i.ctx = .m2Token ∨
    p = .m2Length ∧ i.ctx = .m2Length) (hWf : WellFormed i = true) :
    ∃ u, ChunkAt S p n xs u ∧ u.m2d.DIST = s.m2d.DIST ∧
      ∀ t, exec i u = .next t → chunkWork t = chunkWork u → ComesM2 s t := by
  have hAt : AtToken i.ctx s := by rwa [AtToken, h.phase]
  have hAsks : asksFor i.ctx s.m2d.tok (encode i) = true := h.tok ▸ asksFor_encode (hPlace.imp And.right And.right) hWf
  obtain ⟨regs, hComes, hTok, hOpos, hDist, hReads⟩ := comes_items hAt h.short hAsks h.reads
  rw [h.tok, List.nil_append] at hTok
  refine ⟨{ s with m2d := { regs with tok := [] } }, ⟨h.phase, rfl, h.short, ?_, hOpos ▸ h.opos, h.holds⟩, hDist, fun t ht hWork => ?_⟩
  · exact (readsBack_congr (m := s.CHUNK) (xs := xs) (r := regs) (d := { regs with tok := [] }) rfl rfl rfl).trans hReads
  · have hStep : m2ReadStep i.ctx { s with m2d := regs } = .next t := by
      rw [m2ReadStep_ok (i := i) (r := []) (by rw [hTok]; exact decodeInvertsEncode i hWf), ← ht]
    refine hComes.trans (comesM2_of_read hAt hStep ?_)
    rw [hWork]
    exact Nat.add_lt_add_left (hTok ▸ List.length_pos_iff.mpr (encode_ne_nil (hPlace.imp And.right And.right) hWf)) _

/-- An instruction that leaves the chunk and the reader alone. -/
theorem ChunkAt.executed {m : Nat} (h : ChunkAt S p n xs s) (hReader : ReaderKept s t) (hChunk : t.CHUNK = s.CHUNK)
    (hTok : t.m2d.tok = []) (hPhase : t.phase = q) (hOpos : t.m2d.OPOS.toNat = m) (hHolds : Holds t.SCRATCH S m) :
    ChunkAt S q m xs t ∧ chunkWork t = chunkWork s := by
  simp only [ReaderKept, readerRegs, Prod.mk.injEq] at hReader
  obtain ⟨hFw, hNbits, hOff⟩ := hReader
  refine ⟨⟨hPhase, hTok, hChunk ▸ h.short, ?_, hOpos, hHolds⟩, ?_⟩
  · rw [hChunk, readsBack_congr hFw hNbits hOff]
    exact h.reads
  · rw [chunkWork, chunkWork, hChunk, hNbits, hOff, hTok, h.tok]

theorem ChunkAt.fill (h : ChunkAt S p n xs s) {c : Byte} {k : Nat} (hRoom : n + k ≤ 65536) (hBytes : ∀ j, j < k → c = S.getD (n + j) 0) :
    ChunkAt S p (n + k) xs (fillScratch c k s) ∧ chunkWork (fillScratch c k s) = chunkWork s := by
  have hOpos := h.opos
  obtain ⟨hOver, -⟩ | ⟨hFits, hFill⟩ := fillScratch_cases c k s
  · omega
  · rw [hFill]
    refine h.executed rfl rfl h.tok h.phase (hOpos ▸ opos_add hFits) ?_
    rw [hOpos]
    have hHolds := h.holds.setAll (bs := List.replicate k c) fun j hj => by
      rw [List.length_replicate] at hj
      rw [List.getD_replicate _ hj, hBytes j hj]
    rwa [List.length_replicate] at hHolds

theorem ChunkAt.repeatByte (h : ChunkAt S p n xs s) (lo : Byte) (br : BitVec 1) {c : Byte} {k : Nat} (hRoom : n + k ≤ 65536)
    (hBytes : ∀ j, j < k → c = S.getD (n + j) 0) :
    ChunkAt S p (n + k) xs (repeatByte lo br k c s) ∧ chunkWork (repeatByte lo br k c s) = chunkWork s := by
  obtain ⟨hRegs, hWork⟩ := h.executed (t := { s with m2d := { s.m2d with LO := lo, BR := br, RUN := BitVec.ofNat 13 k } })
    rfl rfl h.tok h.phase h.opos h.holds
  obtain ⟨hFill, hWork'⟩ := hRegs.fill hRoom hBytes
  exact ⟨hFill, hWork'.trans hWork⟩

theorem ChunkAt.copy (h : ChunkAt S p n xs s) {k : Nat} (hPos : 1 ≤ s.m2d.DIST.toNat) (hIn : s.m2d.DIST.toNat ≤ n) (hRoom : n + k ≤ 65536)
    (hMatch : ∀ j, j < k → S.getD (n + j) 0 = S.getD (n + j - s.m2d.DIST.toNat) 0) :
    ChunkAt S .m2Token (n + k) xs (setupRun k s) ∧ chunkWork (setupRun k s) = chunkWork s := by
  have hOpos := h.opos
  obtain ⟨hFar, -⟩ | ⟨-, -, hOver, -⟩ | ⟨-, -, hFits, hCopy⟩ := setupRun_cases k s
  · obtain hZero | hFar := hFar
    · rw [hZero] at hPos
      exact absurd hPos (by decide)
    · omega
  · omega
  · rw [hCopy]
    refine h.executed rfl rfl h.tok rfl (hOpos ▸ opos_add hFits) ?_
    rw [hOpos]
    exact h.holds.copyBack hPos hIn hMatch

end

/-! ## The tokens of a scan (44_mode2_encode R306 to R310) -/

/-- A stretch of a chunk's items that brings the decoder from byte `a` of `S` to byte `b`. -/
abbrev CarriesM2 (S : List Byte) (a b : Nat) (xs : List Item) : Prop :=
  Carries ComesM2 (ChunkAt S .m2Token) a b xs

/-- A repeat is one well-formed token that writes its byte `n` times. -/
theorem rptItems_token (c : Byte) {n : Nat} (hLow : 14 ≤ n) (hHigh : n ≤ 0xFFE) : ∃ i br, rptItems c n = encode i ∧ i.ctx = .m2Token ∧
    WellFormed i = true ∧ ∀ s, exec i s = .next (repeatByte 1 br n c s) := by
  by_cases hShort : n - 14 < 16
  · refine ⟨.m2Rpts 1 (BitVec.ofNat 4 (n - 14)) c, 0, by rw [rptItems, if_pos hShort], rfl, rfl, fun s => ?_⟩
    rw [exec_m2Rpts, BitVec.toNat_ofNat, show (n - 14) % 2 ^ 4 + 14 = n by omega]
  · refine ⟨.m2Rptl 1 (BitVec.ofNat 4 ((n - 14) / 256)) (BitVec.ofNat 8 ((n - 14) % 256)) c, 1, by rw [rptItems, if_neg hShort], rfl, rfl,
      fun s => ?_⟩
    rw [exec_m2Rptl, BitVec.toNat_ofNat, BitVec.toNat_ofNat,
      show (n - 14) / 256 % 2 ^ 4 * 256 + (n - 14) % 256 % 2 ^ 8 + 14 = n by omega]

/-- A reference is a well-formed token that holds the distance, and a length code. -/
theorem refItems_token {d : Nat} (n : Nat) (hLow : 1 ≤ d) (hHigh : d ≤ 0x1FFF) : ∃ i, refItems d n = encode i ++ encode (lengthCode n) ∧
    i.ctx = .m2Token ∧ WellFormed i = true ∧ ∀ s, ∃ dist run lo, dist.toNat = d ∧
      exec i s = .next (beginRun dist { s with m2d := { s.m2d with RUN := run, LO := lo } }) := by
  by_cases hShort : d ≤ 255
  · refine ⟨.m2Sref (BitVec.ofNat 8 d), by rw [refItems, if_pos hShort], rfl, rfl, fun s => ⟨_, s.m2d.RUN, s.m2d.LO, ?_, rfl⟩⟩
    rw [byteDistance_toNat, BitVec.toNat_ofNat]
    omega
  · refine ⟨.m2Lref (BitVec.ofNat 5 (d / 256)) (BitVec.ofNat 8 (d % 256)), by rw [refItems, if_neg hShort], rfl, ?_,
      fun s => ⟨_, _, _, ?_, rfl⟩⟩
    · have : BitVec.ofNat 5 (d / 256) ≠ 0 := by bv_omega
      simpa [WellFormed] using this
    · rw [lrefDistance_toNat, BitVec.toNat_ofNat, BitVec.toNat_ofNat]
      omega

theorem exec_lengthCode {n : Nat} (hLow : 2 ≤ n) (hHigh : n ≤ 269) (s : State) : exec (lengthCode n) s = .next (setupRun n s) := by
  have hExec {i : Instr} (hCtx : i.ctx = .m2Length) : exec i s = .next (setupRun (codeLength i) s) := by
    cases i with
    | len2 | len3 | len4 | len5 | len6to13 x | len14to269 x => rfl
    | _ => cases hCtx
  rw [hExec (lengthCode_ctx n), codeLength_lengthCode hLow hHigh]

theorem wellFormed_lengthCode (n : Nat) : WellFormed (lengthCode n) = true := by
  unfold lengthCode
  split_ifs <;> rfl

section
variable {S : List Byte} {pos : Nat} (hRoom : S.length ≤ 65536)
include hRoom

theorem carries_run {n : Nat} (hLong : 14 ≤ n) (hRun : RunAt S pos n) : CarriesM2 S pos (pos + n) (rptItems (S.getD pos 0) n) := by
  obtain ⟨hMax, hEnd, hBytes⟩ := hRun
  obtain ⟨i, br, hItems, hCtx, hWf, hExec⟩ := rptItems_token (S.getD pos 0) hLong hMax
  rw [hItems]
  intro rest s hs
  obtain ⟨u, hu, -, hComes⟩ := hs.token (.inl ⟨rfl, hCtx⟩) hWf
  obtain ⟨ht, hWork⟩ := hu.repeatByte 1 br (by omega) fun j hj => (hBytes j hj).symm
  exact ⟨_, hComes _ (hExec u) hWork, ht⟩

theorem carries_literal (hPos : pos < S.length) : CarriesM2 S pos (pos + 1) (encode (.m2Lit (S.getD pos 0))) := by
  intro rest s hs
  obtain ⟨u, hu, -, hComes⟩ := hs.token (.inl ⟨rfl, rfl⟩) rfl
  obtain ⟨ht, hWork⟩ := hu.fill (c := S.getD pos 0) (k := 1) (by omega) fun j hj => by rw [Nat.lt_one_iff.mp hj, Nat.add_zero]
  exact ⟨_, hComes _ rfl hWork, ht⟩

theorem carries_copy {d n : Nat} (hd : 1 ≤ d) (hIn : d ≤ min pos 0x1FFF) (hLong : 2 ≤ n) (hMatch : MatchAt S pos d n) :
    CarriesM2 S pos (pos + n) (refItems d n) := by
  obtain ⟨hMax, hEnd, hBytes⟩ := hMatch
  obtain ⟨i, hItems, hCtx, hWf, hExec⟩ := refItems_token n hd (hIn.trans (Nat.min_le_right _ _))
  rw [hItems]
  intro rest s hs
  rw [List.append_assoc] at hs
  obtain ⟨u, hu, -, hComes⟩ := hs.token (.inl ⟨rfl, hCtx⟩) hWf
  obtain ⟨dist, run, lo, rfl, hBegin⟩ := hExec u
  obtain ⟨hHeld, hWork⟩ := hu.executed (q := .m2Length)
    (t := beginRun dist { u with m2d := { u.m2d with RUN := run, LO := lo } }) rfl rfl hu.tok rfl hu.opos hu.holds
  obtain ⟨v, hv, hDist, hComes'⟩ := hHeld.token (.inr ⟨rfl, lengthCode_ctx n⟩) (wellFormed_lengthCode n)
  replace hDist : v.m2d.DIST.toNat = dist.toNat := congrArg BitVec.toNat hDist
  obtain ⟨ht, hWork'⟩ := hv.copy (k := n) (by omega) (by omega) (by omega) (hDist ▸ hBytes)
  exact ⟨_, (hComes _ hBegin hWork).trans (hComes' _ (exec_lengthCode hLong (by omega) v) hWork'), ht⟩

theorem carries_tokenAt {t : List Item × Nat} (h : TokenAt S pos t) : CarriesM2 S pos (pos + t.2) t.1 := by
  cases h with
  | run hLong hRun => exact carries_run hRoom hLong hRun
  | copy hd hIn hLong hMatch => exact carries_copy hRoom hd hIn hLong hMatch
  | literal hPos => exact carries_literal hRoom hPos

end

/-! ## The size of a chunk's payload (44_mode2_encode R312) -/

/-- How many bits an item takes. -/
def itemBits : Item → Nat
  | .flag _ => 1
  | .byte _ => 8

/-- How many bits a sequence of items takes. -/
def bitCount (xs : List Item) : Nat := (xs.map itemBits).sum

@[simp] theorem bitCount_append (xs ys : List Item) : bitCount (xs ++ ys) = bitCount xs + bitCount ys := by simp [bitCount]

/-- The writer stores no bit twice: the bytes are those of the items and the flag bits still free. -/
theorem putItems_size (xs : List Item) (r : M2EncRegs) :
    8 * (putItems xs r).z.length + (putItems xs r).GN + r.GCAP = 8 * r.z.length + r.GN + (putItems xs r).GCAP + bitCount xs := by
  induction xs generalizing r with
  | nil => simp [bitCount]
  | cons x xs ih =>
    cases x with
    | flag b =>
      have hRest := ih (writeFlag b (openGroup r))
      have hBits : bitCount (.flag b :: xs) = 1 + bitCount xs := by simp [bitCount, itemBits]
      rw [← putItems_flag, writeFlag_length, writeFlag_GN, writeFlag_GCAP] at hRest
      by_cases hFull : r.GN = r.GCAP
      · simp only [openGroup_of_full hFull, List.length_append, List.length_cons, List.length_nil] at hRest
        omega
      · rw [openGroup_of_room hFull] at hRest
        omega
    | byte v =>
      have hRest := ih (putByte v r)
      have hBits : bitCount (.byte v :: xs) = 8 + bitCount xs := by simp [bitCount, itemBits]
      rw [← putItems_byte, putByte_GN, putByte_GCAP, putByte_z, List.length_append, List.length_singleton] at hRest
      omega

theorem groupInv_putItems {xs : List Item} {r : M2EncRegs} (h : GroupInv r) : GroupInv (putItems xs r) := by
  induction xs generalizing r with
  | nil => exact h
  | cons x xs ih =>
    cases x with
    | flag b =>
      obtain ⟨hOpen, hRoom⟩ := h.openGroup
      exact ih (hOpen.writeFlag hRoom b)
    | byte v => exact ih (h.putByte v)

theorem bitCount_lengthCode (n : Nat) : bitCount (encode (lengthCode n)) ≤ 13 := by
  unfold lengthCode
  split_ifs <;> simp [encode, flagBits, bitCount, itemBits]

/-- No token takes more than 14 bits a byte it covers. -/
theorem bitCount_le_of_tokenAt {S : List Byte} {pos : Nat} {t : List Item × Nat} (h : TokenAt S pos t) : bitCount t.1 ≤ 14 * t.2 := by
  cases h with
  | @run n hLong hRun =>
    have : bitCount (rptItems (S.getD pos 0) n) ≤ 36 := by
      rw [rptItems]
      split_ifs <;> simp [encode, farFlags, flagBits, bitCount, itemBits]
    simp only
    omega
  | @copy d n _ _ hLong _ =>
    have hHead : bitCount (refItems d n) ≤ 15 + bitCount (encode (lengthCode n)) := by
      rw [refItems, bitCount_append]
      split_ifs <;> simp [encode, flagBits, bitCount, itemBits]
    have := bitCount_lengthCode n
    simp only
    omega
  | literal hPos => simp [encode, bitCount, itemBits]

/-! ## The scan of a chunk (44_mode2_encode R302) -/

/-- What the bit writer keeps in the encoder's registers. -/
def writer (r : M2EncRegs) : List Byte × Nat × Nat × Nat := (r.z, r.GPOS, r.GCAP, r.GN)

theorem writer_eq_iff {r w : M2EncRegs} : writer r = writer w ↔ r.z = w.z ∧ r.GPOS = w.GPOS ∧ r.GCAP = w.GCAP ∧ r.GN = w.GN := by
  simp [writer]

/-- The writer goes on from its own registers alone. -/
theorem writer_putItems {xs : List Item} {r w : M2EncRegs} (h : writer r = writer w) :
    writer (putItems xs r) = writer (putItems xs w) := by
  induction xs generalizing r w with
  | nil => exact h
  | cons x xs ih =>
    obtain ⟨hz, hGpos, hGcap, hGn⟩ := writer_eq_iff.mp h
    refine ih ?_
    cases x with
    | flag b =>
      rw [putItem, putItem, putFlag_eq, putFlag_eq]
      have hOpen : writer (openGroup r) = writer (openGroup w) := by
        simp only [openGroup, hz, hGcap, hGn]
        split
        · rfl
        · exact h
      obtain ⟨hz, hGpos, hGcap, hGn⟩ := writer_eq_iff.mp hOpen
      simp only [writer, writeFlag, hz, hGpos, hGcap, hGn]
    | byte v => simp only [writer, putItem, putByte, hz, hGpos, hGcap, hGn]

theorem writer_hashInsertAll (S : List Byte) (n p : Nat) (r : M2EncRegs) : writer (hashInsertAll S n p r) = writer r := by
  induction n generalizing p r with
  | zero => rfl
  | succ n ih =>
    rw [hashInsertAll, ih, hashInsert]
    split <;> rfl

/-- A turn writes its token, and otherwise only moves on. -/
theorem writer_m2ScanTurn (S : List Byte) (r : M2EncRegs) : writer (m2ScanTurn S r) = writer (putItems (chosenToken S r.POS).1 r) :=
  (writer_hashInsertAll S _ r.POS _).trans (writer_putItems rfl)

/-- What the scan of a chunk keeps: what was written are the items of tokens that bring the decoder to `POS`. -/
def ChunkDecodes (S : List Byte) (e r : M2EncRegs) : Prop :=
  r.POS ≤ S.length ∧ ∃ xs, writer r = writer (putItems xs (m2ScanStart e)) ∧ CarriesM2 S 0 r.POS xs ∧ bitCount xs ≤ 14 * r.POS

section
variable {S : List Byte} {e : M2EncRegs}

theorem m2ScanTurn_decodes (hRoom : S.length ≤ 65536) {r : M2EncRegs} (h : ChunkDecodes S e r) (hPos : r.POS < S.length) :
    ChunkDecodes S e (m2ScanTurn S r) ∧ r.POS < (m2ScanTurn S r).POS := by
  obtain ⟨-, xs, hWriter, hCarries, hBits⟩ := h
  have hToken := tokenAt_chosenToken hPos
  obtain ⟨hOne, hIn⟩ := hToken.covers
  have hTokenBits := bitCount_le_of_tokenAt hToken
  rw [ChunkDecodes, m2ScanTurn_POS, writer_m2ScanTurn]
  refine ⟨⟨hIn, xs ++ (chosenToken S r.POS).1, ?_, hCarries.append (carries_tokenAt hRoom hToken), ?_⟩, by omega⟩
  · rw [putItems_append, writer_putItems hWriter]
  · rw [bitCount_append]
    omega

/-! ## Decoding the payload (43_mode2_decode R260, R276) -/

/-- The state the decoder of a payload starts in. -/
def chunkStart (z : List Byte) : State := { State.reset with STATE := .busy, phase := .m2Start, CHUNK := Space.ofList z }

/-- The state at the first token, with the first flag group in hand. -/
def chunkBegun (v : Byte) (s : State) : State :=
  { s with
    m2d := loadFirstGroup v
      { s.m2d with OFF := 2, OPOS := 0, RUN := 0, LO := Config.freeLo s.fresh, BR := Config.freeBr s.fresh,
                   DIST := Config.freeDist s.fresh, tok := [] }
    phase := .m2Token
    fresh := s.fresh + 1 }

theorem m2DecodeStep_chunkStart {z : List Byte} (hLen : 2 ≤ z.length) (hMethod : z.getD 0 0 = 0) :
    m2DecodeStep (chunkStart z) = .next (chunkBegun (z.getD 1 0) (chunkStart z)) := by
  have hSlice : (Space.ofList z).slice 0 2 = [z.getD 0 0, z.getD 1 0] := by
    rw [slice_cons 1 (by simp; omega), slice_cons 0 (by simp; omega), get_ofList, get_ofList]
    rfl
  change m2StartStep (chunkStart z) = _
  rw [m2StartStep, show (chunkStart z).CHUNK = Space.ofList z from rfl, hSlice, hMethod]
  rfl

/-- The registers in which a chunk's reader starts are in step with those in which its writer started. -/
theorem inStep_start (z : List Byte) (e : M2EncRegs) (s : State) : InStep z (m2ScanStart e) (chunkBegun (z.getD 1 0) s).m2d where
  off := rfl
  nbits := rfl
  bits i hi := by
    replace hi : i < 8 := hi
    simp only [chunkBegun, loadFirstGroup_FW, BitVec.getLsbD_setWidth, m2ScanStart, bitOf]
    rw [show (8 * 1 + 0 + i) / 8 = 1 by omega, show (8 * 1 + 0 + i) % 8 = i by omega, decide_eq_true (by omega), Bool.true_and]

theorem chunkWork_chunkBegun (v : Byte) (z : List Byte) : chunkWork (chunkBegun v (chunkStart z)) = 20 * (z.length - 2) + 16 := by
  rw [← ofList_len z]
  rfl

/-- M2_END ends the token loop with the bytes out. -/
theorem ChunkAt.m2End {n : Nat} {s : State} (h : ChunkAt S .m2Token n (encode .m2End) s) :
    ∃ t, ComesM2 s t ∧ t.phase = .m2CopyOut ∧ t.m2d.OPOS.toNat = n ∧ Holds t.SCRATCH S n := by
  rw [← List.append_nil (encode .m2End)] at h
  obtain ⟨u, hu, -, hComes⟩ := h.token (.inl ⟨rfl, rfl⟩) rfl
  obtain ⟨hEnd, hWork⟩ := hu.executed (q := .m2CopyOut) (t := { u with m2d := { u.m2d with RUN := 0, LO := 0 }, phase := .m2CopyOut })
    rfl rfl hu.tok rfl hu.opos hu.holds
  exact ⟨_, hComes _ rfl hWork, rfl, hEnd.opos, hEnd.holds⟩

/-- The fuel of `decodeM2Payload` is enough: the work at the first token is below 20 steps a byte. -/
theorem m2Loop_chunkStart {z : List Byte} {t : State} (hLen : 2 ≤ z.length) (hMethod : z.getD 0 0 = 0)
    (hComes : ComesM2 (chunkBegun (z.getD 1 0) (chunkStart z)) t) (hOut : ¬ InsideChunk t) :
    m2Loop (32 * (z.length + 2)) (chunkStart z) = some t := by
  have hEnd : stepsInside InsideChunk m2DecodeStep (1 + chunkWork t) t = some t := by
    rw [Nat.add_comm]
    exact stepsInside_of_outside hOut _
  have hWork := chunkWork_chunkBegun (z.getD 1 0) z
  rw [m2Loop_eq]
  refine stepsInside_mono (show 1 + chunkWork (chunkBegun (z.getD 1 0) (chunkStart z)) + 1 ≤ _ by omega) ?_
  rw [stepsInside_of_next (.inl rfl) (m2DecodeStep_chunkStart hLen hMethod)]
  exact hComes 1 t hEnd

/-- What the bit writer made of items that bring the decoder to the end of the chunk, and of M2_END, decodes to the chunk. -/
theorem decodeM2Payload_of_carries {xs : List Item} {z : List Byte} (hz : z = (putItems (xs ++ encode .m2End) (m2ScanStart e)).z)
    (hFits : z.length < 2 ^ 16 - 2) (h : CarriesM2 S 0 S.length xs) : decodeM2Payload z = some S := by
  have hSettled : Settled (putItems (xs ++ encode .m2End) (m2ScanStart e)) z := hz ▸ settled_self _
  obtain ⟨hLen, hBits⟩ := hSettled.of_putItems (groupInv_start e)
  have hMethod : z.getD 0 0 = 0 := getD_eq_of_bitOf (z := [0, 0]) fun k hk =>
    hBits _ (by simp [m2ScanStart]; omega) (by simp [m2ScanStart]; omega)
  have hStart : ChunkAt S .m2Token 0 (xs ++ encode .m2End) (chunkBegun (z.getD 1 0) (chunkStart z)) :=
    { phase := rfl
      tok := rfl
      short := show (Space.ofList z).len < 2 ^ 16 by rw [ofList_len]; omega
      reads := readsBack_putItems (groupInv_start e) (inStep_start z e _) hSettled hFits
      opos := rfl
      holds := ⟨rfl, Nat.zero_le _, fun i hi => absurd hi (Nat.not_lt_zero i)⟩ }
  obtain ⟨t, hComes, ht⟩ := h _ _ hStart
  obtain ⟨u, hEnds, hPhase, hOpos, hHolds⟩ := ht.m2End
  have hRun := m2Loop_chunkStart hLen hMethod (hComes.trans hEnds) (by simp [InsideChunk, hPhase])
  unfold decodeM2Payload
  split
  next w hw =>
    cases hw.symm.trans hRun
    rw [if_pos hPhase, hOpos, hHolds.slice rfl]
  next hw => cases hw.symm.trans hRun

/-- At the end of the chunk the payload fits the u16 field and decodes to the chunk. -/
theorem m2ScanEnd_decodes (hS : S.length ≤ 0x7FF0) {r : M2EncRegs} (h : ChunkDecodes S e r) (hEnd : r.POS = S.length) :
    (m2ScanEnd r).z.length + 2 ≤ 0xFFFF ∧ decodeM2Payload (m2ScanEnd r).z = some S := by
  obtain ⟨-, xs, hWriter, hCarries, hBits⟩ := h
  rw [hEnd] at hCarries hBits
  have hz : (m2ScanEnd r).z = (putItems (xs ++ encode .m2End) (m2ScanStart e)).z := by
    rw [putItems_append]
    exact congrArg Prod.fst (writer_putItems (xs := encode .m2End) hWriter)
  have hSize := putItems_size (xs ++ encode .m2End) (m2ScanStart e)
  have hCap := (groupInv_putItems (xs := xs ++ encode .m2End) (groupInv_start e)).cap
  have hEndBits : bitCount (encode .m2End) = 15 := rfl
  rw [← hz, bitCount_append, hEndBits, show (m2ScanStart e).z.length = 2 from rfl, show (m2ScanStart e).GN = 0 from rfl] at hSize
  exact ⟨by omega, decodeM2Payload_of_carries hz (by omega) hCarries⟩

/-- The mode-2 half of O53: the scan comes to the end of the chunk, its payload fits the u16 field, and it decodes to the chunk. -/
theorem m2Scan_decodes (hS : S.length ≤ 0x7FF0) : ∃ n, (∀ m, m < n → ((m2ScanTurn S)^[m] (m2ScanStart e)).POS < S.length) ∧
    ((m2ScanTurn S)^[n] (m2ScanStart e)).POS = S.length ∧
    (m2ScanEnd ((m2ScanTurn S)^[n] (m2ScanStart e))).z.length + 2 ≤ 0xFFFF ∧
    decodeM2Payload (m2ScanEnd ((m2ScanTurn S)^[n] (m2ScanStart e))).z = some S := by
  have hStart : ChunkDecodes S e (m2ScanStart e) := ⟨Nat.zero_le _, [], rfl, .nil, Nat.zero_le _⟩
  obtain ⟨n, hBefore, hEnd, hDecodes⟩ := exists_iterate_at_end (cursor := M2EncRegs.POS) (fun _ ⟨hPos, _⟩ => hPos)
    (fun _ => m2ScanTurn_decodes (by omega)) hStart
  exact ⟨n, hBefore, hEnd, m2ScanEnd_decodes hS hDecodes hEnd⟩

end

/-- Settles O53: in both modes the scan comes to its end, and what it wrote brings the decoder from the first byte to the last. -/
theorem referencePayloadDecodes : Obligations.ReferencePayloadDecodes :=
  ⟨fun _ _ hS => m3Scan_decodes hS, fun _ _ hS => m2Scan_decodes hS⟩

end Sys2Proof.RoundTrip
end

section
/-! The family 43_mode2_decode: what the reader of a chunk does with a flag bit or a byte that is needed, where it starts, what the literal,
the length codes and M2_END make of it, and that each of its steps uses up some of the chunk. -/

namespace Sys2Proof.Mode2Decode

open Sys2Proof.Machine Sys2Proof.Safety Sys2Proof.Scope Sys2Proof.Reading Sys2Proof.Invariants Sys2Proof.Memory Sys2Proof.Encoding
  Sys2Proof.Framing Sys2Proof.Mode3Decode Sys2Proof.BitStream Sys2Proof.RoundTrip

/-! ## The bit writer (44_mode2_encode R300, R301) -/

/-- Settles O50: where the chunk starts the reader is in step with the writer, and what the writer has written is settled in the end. -/
theorem bitWriterMirrorsReader : Obligations.BitWriterMirrorsReader := by
  intro xs e r hFits
  have hReads := readsBack_putItems (xs := xs) (groupInv_start e) (inStep_start _ e State.reset) (settled_self _) hFits
  rw [← hReads]
  exact readsBack_congr rfl rfl rfl

/-! ## The reader of a chunk (R262, R264) -/

theorem step_atToken {c : Ctx} {s : State} (hs : s.turns = []) (hAt : AtToken c s) : step s = m2ReadStep c s := by
  rw [step_of_no_turns hs, engineStep]
  obtain ⟨hp, rfl⟩ | ⟨hp, rfl⟩ := hAt
  · rw [hp]
  · rw [hp]

theorem slice_two {m : Space} {a : Nat} (h : a + 2 ≤ m.len) : m.slice a 2 = [m.get a, m.get (a + 1)] := by
  rw [slice_cons 1 (by omega), slice_cons 0 (by omega)]
  rfl

theorem decodeM2FlagWord_needsBytes : NeedsBytes 2 (decode .m2FlagWord) := .u16 fun _ => needsBytes_zero _

/-- The flag word at `OFF`. -/
def wordAt (s : State) : BitVec 16 := s.CHUNK.get (s.m2d.OFF.toNat + 1) ++ s.CHUNK.get s.m2d.OFF.toNat

theorem wordAt_toNat (s : State) :
    (wordAt s).toNat = (s.CHUNK.get s.m2d.OFF.toNat).toNat + (s.CHUNK.get (s.m2d.OFF.toNat + 1)).toNat * 256 := by
  rw [wordAt, BitVec.toNat_append, ← Nat.shiftLeft_add_eq_or_of_lt (BitVec.isLt _), Nat.shiftLeft_eq, Nat.add_comm]

section
variable {c : Ctx} {s : State}

theorem m2ReadStep_flagBit (hNeed : decode c s.m2d.tok = .needFlag) (hSome : s.m2d.NBITS ≠ 0) :
    m2ReadStep c s = .next { s with m2d := takeFlagBit s.m2d } := by
  rw [m2ReadStep, hNeed, readFlag, if_neg hSome]

theorem m2ReadStep_wordAt (hNeed : decode c s.m2d.tok = .needFlag) (hNone : s.m2d.NBITS = 0)
    (hFits : s.m2d.OFF.toNat + 2 ≤ s.CHUNK.len) : m2ReadStep c s = .next { s with m2d := loadFlagWord (wordAt s) s.m2d } := by
  rw [m2ReadStep_flagWord hNeed hNone (slice_two hFits ▸ decode_m2FlagWord_bytes _ _)]
  rfl

theorem m2ReadStep_noWord (hNeed : decode c s.m2d.tok = .needFlag) (hNone : s.m2d.NBITS = 0)
    (hShort : s.CHUNK.len < s.m2d.OFF.toNat + 2) : m2ReadStep c s = .next (raise .outOfData s) := by
  have hWord := decodeM2FlagWord_needsBytes (s.CHUNK.slice s.m2d.OFF.toNat 2) (by rw [slice_length]; omega)
  rw [m2ReadStep, hNeed, readFlag, if_pos hNone, hWord, runFetched]

theorem m2ReadStep_byte (hNeed : decode c s.m2d.tok = .needByte) (hFits : s.m2d.OFF.toNat < s.CHUNK.len) :
    m2ReadStep c s = .next { s with m2d := takeStreamByte (s.CHUNK.get s.m2d.OFF.toNat) s.m2d } := by
  rw [m2ReadStep, hNeed, readByte, slice_one, if_pos hFits]

theorem m2ReadStep_noByte (hNeed : decode c s.m2d.tok = .needByte) (hEnd : s.CHUNK.len ≤ s.m2d.OFF.toNat) :
    m2ReadStep c s = .next (raise .outOfData s) := by
  rw [m2ReadStep, hNeed, readByte, slice_one, if_neg (not_lt.mpr hEnd)]

end

/-- Settles O7: the reader's step for a needed bit and a needed byte, each with and without one left. -/
theorem readerTakesBitsAndBytes : Obligations.ReaderTakesBitsAndBytes := by
  intro s c hs hAt
  rw [step_atToken hs hAt]
  refine ⟨m2ReadStep_flagBit, fun hNeed hNone hFits => ?_, fun hNeed hNone hShort => ?_, m2ReadStep_byte, fun hNeed hEnd => ?_⟩
  · exact ⟨_, m2ReadStep_wordAt hNeed hNone hFits, rfl, wordAt_toNat s⟩
  · rw [m2ReadStep_noWord hNeed hNone hShort]
    exact endsInError_raise _ _
  · rw [m2ReadStep_noByte hNeed hEnd]
    exact endsInError_raise _ _

/-! ## The start of a chunk and its flag words (R260 to R262) -/

theorem step_m2Start_of_empty {s : State} (hs : s.turns = []) (hp : s.phase = .m2Start) (hEmpty : s.CHUNK.len = 0) :
    EndsInError (step s) .truncatedInput := by
  have hNone : s.CHUNK.slice 0 2 = [] := List.eq_nil_of_length_eq_zero (by rw [slice_length]; omega)
  rw [step_of_no_turns hs, engineStep, hp]
  exact runFetched_needByte (by rw [hNone]; rfl) s

theorem exec_m2ChunkStart_of_method {method : Byte} (h : method ≠ 0) (g : Option Byte) (s : State) :
    exec (.m2ChunkStart method g) s = .next (raise .unsupportedMethod s) := if_pos h

theorem exec_m2ChunkStart_none (s : State) : exec (.m2ChunkStart 0 none) s = .next (raise .outOfData s) := rfl

theorem exec_m2ChunkStart_some (v : Byte) (s : State) : exec (.m2ChunkStart 0 (some v)) s = .next (chunkBegun v s) := rfl

/-- Settles O23: the empty chunk, and the three chunk starts there are. -/
theorem chunkStartLoadsReader : Obligations.ChunkStartLoadsReader := by
  refine ⟨fun s => step_m2Start_of_empty, fun method g s => ⟨fun hMethod => ?_, ?_, fun v => ?_⟩⟩
  · rw [exec_m2ChunkStart_of_method hMethod]
    exact endsInError_raise _ _
  · rw [exec_m2ChunkStart_none]
    exact endsInError_raise _ _
  · exact ⟨_, exec_m2ChunkStart_some v s, rfl, BitVec.toNat_setWidth_of_le (by decide)⟩

/-- Settles O24: `loadFlagWord` is all a flag word does. -/
theorem flagWordLoads : Obligations.FlagWordLoads := fun _ _ => rfl

/-! ## The tokens and length codes (R266, R270, R274) -/

/-- Settles O20: the token writes `RUN` and `LO` and moves the engine on. -/
theorem endStopsChunk : Obligations.EndStopsChunk := fun _ => rfl

theorem exec_m2Lit (c : Byte) (s : State) : exec (.m2Lit c) s = .next (fillScratch c 1 s) := rfl

/-- Settles O18: the literal's byte is read before the literal is executed, and that fills one place of SCRATCH. -/
theorem m2LitWritesByte : Obligations.M2LitWritesByte := by
  refine ⟨fun s hs hp hTok hEnd => ?_, fun c s hWf => ?_⟩
  · have hNeed : decode .m2Token s.m2d.tok = .needByte := by rw [hTok]; rfl
    rw [step_atToken hs (.inl ⟨hp, rfl⟩), m2ReadStep_noByte hNeed hEnd]
    exact endsInError_raise _ _
  · rw [exec_m2Lit]
    obtain ⟨hFull, hRaise⟩ | ⟨hRoom, hFill⟩ := fillScratch_cases c 1 s
    · rw [hRaise]
      exact ⟨fun _ => endsInError_raise _ _, fun hRoom => by omega⟩
    · rw [hFill]
      exact ⟨fun hFull => by omega, fun _ => ⟨_, rfl, rfl, opos_add hRoom, setAll_written hWf _ [c]⟩⟩

theorem exec_of_m2Length {i : Instr} (hCtx : i.ctx = .m2Length) (s : State) : exec i s = .next (setupRun (codeLength i) s) := by
  obtain ⟨hLow, hHigh⟩ := codeLength_range hCtx
  have hExec := exec_lengthCode hLow hHigh s
  rwa [lengthCode_codeLength hCtx] at hExec

/-- A distance within what was written is not `BadDistance`. -/
theorem not_far {s : State} (hPos : s.m2d.DIST ≠ 0) (hNear : s.m2d.DIST.toNat ≤ s.m2d.OPOS.toNat) :
    ¬ (s.m2d.DIST = 0 ∨ s.m2d.OPOS.toNat < s.m2d.DIST.toNat) := not_or.mpr ⟨hPos, hNear.not_gt⟩

/-- Settles O22: a length code is `setup_run` of its length, and `RUN` has room for that. -/
theorem lengthCodesCopy : Obligations.LengthCodesCopy := by
  intro i s hCtx hWf
  obtain ⟨-, hHigh⟩ := codeLength_range hCtx
  rw [exec_of_m2Length hCtx]
  obtain ⟨hFar, h⟩ | ⟨hPos, hNear, hOver, h⟩ | ⟨hPos, hNear, hFits, h⟩ := setupRun_cases (codeLength i) s
  · rw [h]
    exact ⟨fun _ => endsInError_raise _ _, fun hPos hNear => absurd hFar (not_far hPos hNear),
      fun hPos hNear => absurd hFar (not_far hPos hNear)⟩
  · rw [h]
    exact ⟨fun hFar => absurd hFar (not_far hPos hNear), fun _ _ _ => endsInError_raise _ _,
      fun _ _ hFits => absurd hOver hFits.not_gt⟩
  · rw [h]
    refine ⟨fun hFar => absurd hFar (not_far hPos hNear), fun _ _ hOver => absurd hOver hFits.not_gt, fun _ _ _ => ?_⟩
    have hDist : 1 ≤ s.m2d.DIST.toNat := by bv_omega
    exact ⟨_, rfl, rfl, Nat.mod_eq_of_lt (by omega), opos_add hFits, copyBack_copied hWf _ hDist hNear⟩

/-! ## What a step uses up (R277) -/

section
variable {s : State}

theorem chunkWork_takeFlagBit (hSome : s.m2d.NBITS ≠ 0) : chunkWork { s with m2d := takeFlagBit s.m2d } + 1 = chunkWork s := by
  have : (s.m2d.NBITS - 1).toNat + 1 = s.m2d.NBITS.toNat := by bv_omega
  simp only [chunkWork, takeFlagBit_OFF, takeFlagBit_NBITS, takeFlagBit_tok, List.length_append, List.length_singleton]
  omega

theorem chunkWork_loadFlagWord (w : BitVec 16) (hNone : s.m2d.NBITS = 0) (hShort : s.CHUNK.len < 2 ^ 16)
    (hFits : s.m2d.OFF.toNat + 2 ≤ s.CHUNK.len) : chunkWork { s with m2d := loadFlagWord w s.m2d } + 8 = chunkWork s := by
  have hOff : (s.m2d.OFF + 2).toNat = s.m2d.OFF.toNat + 2 := by bv_omega
  have hBits : (16 : BitVec 5).toNat = 16 := rfl
  have hZero : (0 : BitVec 5).toNat = 0 := rfl
  simp only [chunkWork, loadFlagWord_OFF, loadFlagWord_NBITS, loadFlagWord_tok, hOff, hNone, hBits, hZero]
  omega

theorem chunkWork_takeStreamByte (v : Byte) (hShort : s.CHUNK.len < 2 ^ 16) (hFits : s.m2d.OFF.toNat < s.CHUNK.len) :
    chunkWork { s with m2d := takeStreamByte v s.m2d } + 19 = chunkWork s := by
  have hOff : (s.m2d.OFF + 1).toNat = s.m2d.OFF.toNat + 1 := by bv_omega
  simp only [chunkWork, takeStreamByte_OFF, takeStreamByte_NBITS, takeStreamByte_tok, hOff, List.length_append, List.length_singleton]
  omega

end

theorem chunkWork_dropItems (s : State) : chunkWork (dropItems s) + s.m2d.tok.length = chunkWork s := rfl

theorem chunkWork_fillScratch (c : Byte) (k : Nat) (s : State) : chunkWork (fillScratch c k s) = chunkWork s := by
  obtain ⟨-, h⟩ | ⟨-, h⟩ := fillScratch_cases c k s
  · rw [h]; rfl
  · rw [h]; rfl

theorem chunkWork_setupRun (len : Nat) (s : State) : chunkWork (setupRun len s) = chunkWork s := by
  obtain ⟨-, h⟩ | ⟨-, -, -, h⟩ | ⟨-, -, -, h⟩ := setupRun_cases len s
  · rw [h]; rfl
  · rw [h]; rfl
  · rw [h]; rfl

/-- Executing a token reads nothing more of the chunk. -/
theorem exec_m2Token_chunkWork {i : Instr} (hCtx : i.ctx = .m2Token) (s : State) :
    Yields (fun t => chunkWork t = chunkWork s) (exec i s) := by
  cases i with
  | m2Lit c => exact chunkWork_fillScratch c 1 s
  | m2Sref d | m2Lref h lo | m2Aref lo | m2End => exact (rfl : chunkWork s = chunkWork s)
  | m2Rpts lo v c => exact chunkWork_fillScratch c (shortCount v) { s with m2d := _ }
  | m2Rptl lo v x c => exact chunkWork_fillScratch c (longCount v x) { s with m2d := _ }
  | _ => cases hCtx

/-- Nor does executing a length code. -/
theorem exec_atToken_chunkWork {c : Ctx} {i : Instr} {s : State} (hAt : AtToken c s) (hCtx : i.ctx = c) (u : State) :
    Yields (fun t => chunkWork t = chunkWork u) (exec i u) := by
  obtain ⟨-, rfl⟩ | ⟨-, rfl⟩ := hAt
  · exact exec_m2Token_chunkWork hCtx u
  · rw [exec_of_m2Length hCtx]
    exact chunkWork_setupRun _ u

/-- A token has been read only if it has an item: with none held, a flag bit is needed. -/
theorem tok_ne_nil {c : Ctx} {s : State} {i : Instr} {r : List Item} (hAt : AtToken c s) (hRead : decode c s.m2d.tok = .ok i r) :
    s.m2d.tok ≠ [] := by
  intro hNil
  rw [hNil] at hRead
  obtain ⟨-, rfl⟩ | ⟨-, rfl⟩ := hAt
  · cases hRead
  · cases hRead

theorem raise_leaves_token (e : ErrorKind) (s : State) : ¬ inM2Token (raise e s).phase := by simp [inM2Token]

/-- A step of the reader ends the token loop with `OutOfData`, or uses up a flag bit, a flag word, a byte or the items held. -/
theorem m2ReadStep_uses_up {c : Ctx} {s t : State} (hAt : AtToken c s) (hShort : s.CHUNK.len < 2 ^ 16) (h : m2ReadStep c s = .next t) :
    ¬ inM2Token t.phase ∨ chunkWork t < chunkWork s := by
  cases hRead : decode c s.m2d.tok with
  | ok i r =>
    rw [m2ReadStep_ok hRead] at h
    obtain ⟨hCtx, -⟩ := decode_readAt _ _ i r hRead
    have hSame : chunkWork t = chunkWork (dropItems s) := (exec_atToken_chunkWork hAt hCtx (dropItems s)).of_next h
    have hDrop := chunkWork_dropItems s
    have hItems := List.length_pos_iff.mpr (tok_ne_nil hAt hRead)
    exact .inr (by omega)
  | needFlag =>
    by_cases hNone : s.m2d.NBITS = 0
    · by_cases hFits : s.m2d.OFF.toNat + 2 ≤ s.CHUNK.len
      · cases (m2ReadStep_wordAt hRead hNone hFits).symm.trans h
        have := chunkWork_loadFlagWord (wordAt s) hNone hShort hFits
        exact .inr (by omega)
      · cases (m2ReadStep_noWord hRead hNone (not_le.mp hFits)).symm.trans h
        exact .inl (raise_leaves_token _ _)
    · cases (m2ReadStep_flagBit hRead hNone).symm.trans h
      have := chunkWork_takeFlagBit hNone
      exact .inr (by omega)
  | needByte =>
    by_cases hFits : s.m2d.OFF.toNat < s.CHUNK.len
    · cases (m2ReadStep_byte hRead hFits).symm.trans h
      have := chunkWork_takeStreamByte (s.CHUNK.get s.m2d.OFF.toNat) hShort hFits
      exact .inr (by omega)
    · cases (m2ReadStep_noByte hRead (not_lt.mp hFits)).symm.trans h
      exact .inl (raise_leaves_token _ _)
  | wrongKind =>
    rw [m2ReadStep, hRead] at h
    cases h

/-- Settles O43: inside the token loop a step of the engine is a step of the reader. -/
theorem chunkDecodingEnds : Obligations.ChunkDecodingEnds := by
  intro s t hInv hs hIn h
  obtain ⟨-, -, -, -, -, -, -, hChunk, -⟩ := hInv
  obtain ⟨hShort, -⟩ := hChunk hIn
  obtain ⟨c, hAt⟩ : ∃ c, AtToken c s := by
    obtain hp | hp := hIn
    · exact ⟨_, .inl ⟨hp, rfl⟩⟩
    · exact ⟨_, .inr ⟨hp, rfl⟩⟩
  rw [step_atToken hs hAt] at h
  exact m2ReadStep_uses_up hAt (by omega) h

end Sys2Proof.Mode2Decode
end

section
/-! The family 44_mode2_encode: the run and the match the encoder takes, the hash chain that finds the same match, the token it chooses, and
a turn of its scan. -/

namespace Sys2Proof.Mode2Encode

open Sys2Proof.Machine Sys2Proof.Safety Sys2Proof.Containers Sys2Proof.Matching Sys2Proof.RoundTrip

/-! ## The run (R303) -/

theorem le_length_takeWhile {p : Byte → Bool} {l : List Byte} {n : Nat} (hIn : n ≤ l.length) (h : ∀ v ∈ l.take n, p v = true) :
    n ≤ (l.takeWhile p).length := by
  rw [← List.take_append_drop n l, List.takeWhile_append_of_pos h, List.length_append, List.length_take_of_le hIn]
  exact Nat.le_add_right n _

/-- No run is longer than `run_length`. -/
theorem le_runLength {S : List Byte} {pos n : Nat} (h : RunAt S pos n) : n ≤ runLength S pos := by
  obtain ⟨hMax, hEnd, hEq⟩ := h
  refine le_length_takeWhile (by simp [Config.m2RunMax]; omega) fun v hv => ?_
  obtain ⟨j, hj, rfl⟩ := List.getElem_of_mem hv
  simp only [List.length_take, List.length_drop] at hj
  simpa [show pos + j < S.length by omega] using hEq j (by omega)

/-- One byte is a run. -/
theorem runAt_one {S : List Byte} {pos : Nat} (hPos : pos < S.length) : RunAt S pos 1 :=
  ⟨by decide, hPos, fun j hj => by rw [Nat.lt_one_iff.mp hj, Nat.add_zero]⟩

/-- Settles O46: `run_length` gives a run, and none is longer. -/
theorem runLengthIsLongest : Obligations.RunLengthIsLongest := by
  intro S pos hPos
  obtain ⟨hMax, hEnd, hEq⟩ := runAt_runLength hPos.le
  exact ⟨le_runLength (runAt_one hPos), hMax, hEnd, hEq, fun r _ hr hIn hRun => le_runLength ⟨hr, hIn, hRun⟩⟩

/-! ## The match (R304) -/

theorem le_commonStart {x y : List Byte} {n : Nat} (hx : n ≤ x.length) (hy : n ≤ y.length)
    (h : ∀ j, j < n → x.getD j 0 = y.getD j 0) : n ≤ commonStart x y := by
  induction n generalizing x y with
  | zero => exact Nat.zero_le _
  | succ n ih =>
    obtain ⟨a, x, rfl⟩ := List.exists_cons_of_length_pos (Nat.zero_lt_of_lt hx)
    obtain ⟨b, y, rfl⟩ := List.exists_cons_of_length_pos (Nat.zero_lt_of_lt hy)
    have hHead : a = b := h 0 (Nat.succ_pos n)
    rw [commonStart, if_pos hHead]
    exact Nat.succ_le_succ (ih (Nat.le_of_succ_le_succ hx) (Nat.le_of_succ_le_succ hy) fun j hj => h (j + 1) (Nat.succ_lt_succ hj))

/-- No match of distance `d` is longer than `matchLength`. -/
theorem le_matchLength {S : List Byte} {pos d n : Nat} (hd : d ≤ pos) (h : MatchAt S pos d n) : n ≤ matchLength S pos d := by
  obtain ⟨hMax, hEnd, hEq⟩ := h
  refine le_commonStart (by simp [Config.m2MatchMax]; omega) (by simp; omega) fun j hj => ?_
  rw [getD_take_drop S pos (show j < Config.m2MatchMax by simp only [Config.m2MatchMax]; omega), hEq j hj,
    show pos + j - d = pos - d + j by omega]
  simp

/-- Settles O47: `longest_match` is the first of the longest matches of the window. -/
theorem longestMatchIsNearest : Obligations.LongestMatchIsNearest := by
  intro S pos hPos
  rw [longestMatch_eq]
  have hWindow {d : Nat} (hIn : d ≤ min pos Config.m2Window) : d ≤ pos := hIn.trans (Nat.min_le_left _ _)
  refine ⟨fun d l hd hIn hMatch => (le_matchLength (hWindow hIn) hMatch).trans (le_firstBest _ _ hd hIn), ?_⟩
  obtain h | ⟨d, hd, hIn, h, hLong, hFirst⟩ := firstBest_cases (matchLength S pos) (1, 0) (min pos Config.m2Window)
  · exact .inl h
  · rw [h]
    refine .inr ⟨hLong, hd, hIn, matchAt_matchLength hPos (hWindow hIn), fun e he hNear hMatch => ?_⟩
    exact absurd (le_matchLength (hNear.le.trans (hWindow hIn)) hMatch) (not_le.mpr (hFirst e he hNear))

/-! ## The tables (10_state R39, log 22) -/

/-- Keys in rising order. -/
def Ordered (t : List (Nat × Nat)) : Prop := t.Pairwise fun a b => a.1 < b.1

/-- The table of one entry, empty for none. -/
def entry (k : Nat) (v : Option Nat) : List (Nat × Nat) := v.toList.map (Prod.mk k)

theorem tableSet_nil (k : Nat) (v : Option Nat) : tableSet [] k v = entry k v := by
  cases v <;> rfl

theorem tableGet_cons (e : Nat × Nat) (t : List (Nat × Nat)) (k : Nat) :
    tableGet (e :: t) k = if e.1 = k then some e.2 else tableGet t k := rfl

section
variable {t : List (Nat × Nat)} {e : Nat × Nat} {k : Nat} (v : Option Nat)

theorem tableSet_before (h : k < e.1) : tableSet (e :: t) k v = entry k v ++ e :: t := by
  cases v <;> exact if_pos h

theorem tableSet_at : tableSet (e :: t) e.1 v = entry e.1 v ++ t := by
  refine (if_neg (Nat.lt_irrefl e.1)).trans ((if_pos rfl).trans ?_)
  cases v <;> rfl

theorem tableSet_after (h : e.1 < k) : tableSet (e :: t) k v = e :: tableSet t k v :=
  (if_neg h.asymm).trans (if_neg h.ne')

theorem key_of_mem_entry (h : e ∈ entry k v) : e.1 = k := by
  obtain ⟨p, -, rfl⟩ := List.mem_map.mp h
  rfl

theorem mem_tableSet (h : e ∈ tableSet t k v) : e.1 = k ∨ e ∈ t := by
  induction t with
  | nil => exact .inl (key_of_mem_entry v (tableSet_nil k v ▸ h))
  | cons a t ih =>
    obtain hLess | rfl | hMore := lt_trichotomy k a.1
    · rw [tableSet_before v hLess] at h
      exact (List.mem_append.mp h).imp_left (key_of_mem_entry v)
    · rw [tableSet_at] at h
      exact (List.mem_append.mp h).imp (key_of_mem_entry v) (List.mem_cons_of_mem a)
    · rw [tableSet_after v hMore] at h
      obtain rfl | h := List.mem_cons.mp h
      · exact .inr List.mem_cons_self
      · exact (ih h).imp_right (List.mem_cons_of_mem a)

/-- Keys that rise from `e` on are above any key below `e`'s. -/
theorem Ordered.above (h : Ordered (e :: t)) (hk : k < e.1) : ∀ b ∈ e :: t, k < b.1 :=
  List.forall_mem_cons.mpr ⟨hk, fun _ hb => hk.trans (List.rel_of_pairwise_cons h hb)⟩

theorem Ordered.entry_append (h : Ordered t) (hAbove : ∀ b ∈ t, k < b.1) : Ordered (entry k v ++ t) := by
  cases v with
  | none => exact h
  | some p => exact List.pairwise_cons.mpr ⟨hAbove, h⟩

theorem Ordered.tableSet (h : Ordered t) : Ordered (tableSet t k v) := by
  induction t with
  | nil =>
    rw [tableSet_nil, ← List.append_nil (entry k v)]
    exact h.entry_append v (by simp)
  | cons a t ih =>
    obtain ⟨hHead, hRest⟩ : _ ∧ Ordered t := List.pairwise_cons.mp h
    obtain hLess | rfl | hMore := lt_trichotomy k a.1
    · rw [tableSet_before v hLess]
      exact h.entry_append v (h.above hLess)
    · rw [tableSet_at]
      exact hRest.entry_append v hHead
    · rw [tableSet_after v hMore]
      refine List.pairwise_cons.mpr ⟨fun b hb => ?_, ih hRest⟩
      obtain hNew | hOld := mem_tableSet v hb
      · exact hNew ▸ hMore
      · exact hHead b hOld

theorem tableGet_eq_none (hAbove : ∀ b ∈ t, k < b.1) : tableGet t k = none := by
  induction t with
  | nil => rfl
  | cons a t ih =>
    obtain ⟨hHead, hRest⟩ := List.forall_mem_cons.mp hAbove
    rw [tableGet_cons, if_neg hHead.ne', ih hRest]

theorem tableGet_entry_append (hAbove : ∀ b ∈ t, k < b.1) (j : Nat) :
    tableGet (entry k v ++ t) j = if j = k then v else tableGet t j := by
  cases v with
  | none =>
    split
    next hKey => exact tableGet_eq_none (hKey ▸ hAbove)
    next => rfl
  | some p => exact if_congr eq_comm rfl rfl

/-- What a table holds when one entry of it is made `v`. -/
theorem tableGet_tableSet (h : Ordered t) (j : Nat) : tableGet (tableSet t k v) j = if j = k then v else tableGet t j := by
  induction t with
  | nil =>
    rw [tableSet_nil, ← List.append_nil (entry k v)]
    exact tableGet_entry_append v (by simp) j
  | cons a t ih =>
    obtain ⟨hHead, hRest⟩ := List.pairwise_cons.mp h
    obtain hLess | rfl | hMore := lt_trichotomy k a.1
    · rw [tableSet_before v hLess, tableGet_entry_append v (h.above hLess)]
    · rw [tableSet_at, tableGet_entry_append v hHead, tableGet_cons]
      by_cases hj : j = a.1
      · rw [if_pos hj, if_pos hj]
      · rw [if_neg hj, if_neg hj, if_neg (Ne.symm hj)]
    · rw [tableSet_after v hMore, tableGet_cons, tableGet_cons, ih hRest]
      by_cases hj : a.1 = j
      · rw [if_pos hj, if_pos hj, if_neg (hj ▸ hMore.ne)]
      · rw [if_neg hj, if_neg hj]

end

/-! ## The hash chain (R305) -/

/-- The registers of `r` with the tables of `t`. -/
def withTables (r t : M2EncRegs) : M2EncRegs := { r with HEAD := t.HEAD, NEXT := t.NEXT }

section
variable (S : List Byte)

theorem hashInsert_withTables (p : Nat) (r t : M2EncRegs) : hashInsert S p (withTables r t) = withTables r (hashInsert S p t) := by
  rw [hashInsert, hashInsert]
  split <;> rfl

/-- Entering positions reads and writes the tables alone. -/
theorem hashInsertAll_withTables (n p : Nat) (r t : M2EncRegs) :
    hashInsertAll S n p (withTables r t) = withTables r (hashInsertAll S n p t) := by
  induction n generalizing p t with
  | zero => rfl
  | succ n ih => rw [hashInsertAll, hashInsertAll, hashInsert_withTables, ih]

theorem hashInsertAll_frame (n p : Nat) (r : M2EncRegs) : hashInsertAll S n p r = withTables r (hashInsertAll S n p r) :=
  hashInsertAll_withTables S n p r r

theorem hashInsertAll_add (m n p : Nat) (r : M2EncRegs) :
    hashInsertAll S (m + n) p r = hashInsertAll S n (p + m) (hashInsertAll S m p r) := by
  induction m generalizing p r with
  | zero => rw [Nat.zero_add]; rfl
  | succ m ih => rw [Nat.succ_add, hashInsertAll, ih, hashInsertAll, Nat.add_right_comm, Nat.add_assoc p]

theorem hashInsertAll_succ (n : Nat) (r : M2EncRegs) : hashInsertAll S (n + 1) 0 r = hashInsert S n (hashInsertAll S n 0 r) := by
  rw [hashInsertAll_add, Nat.zero_add]
  rfl

/-- The newest position before the given one whose digraph has the key `k`. -/
def newest (k : Nat) : Nat → Option Nat
  | 0 => none
  | p + 1 => if k = digraphKey S p then some p else newest k p

end

section
variable {S : List Byte} {r : M2EncRegs}

theorem newest_lt {k n p : Nat} (h : newest S k n = some p) : p < n := by
  induction n with
  | zero => cases h
  | succ n ih =>
    rw [newest] at h
    split at h
    · cases h
      exact Nat.lt_succ_self _
    · exact (ih h).trans (Nat.lt_succ_self n)

theorem hashInsert_inside {p : Nat} (h : p + 1 < S.length) : hashInsert S p r =
    { r with
      NEXT := tableSet r.NEXT (p % Config.m2Chain) (tableGet r.HEAD (digraphKey S p))
      HEAD := tableSet r.HEAD (digraphKey S p) (some p) } := if_pos h

theorem hashInsert_NEXT_ordered (p : Nat) (h : Ordered r.NEXT) : Ordered (hashInsert S p r).NEXT := by
  rw [hashInsert]
  split
  · exact h.tableSet _
  · exact h

theorem hashInsertAll_NEXT_ordered (n p : Nat) (h : Ordered r.NEXT) : Ordered (hashInsertAll S n p r).NEXT := by
  induction n generalizing p r with
  | zero => exact h
  | succ n ih => exact ih (p + 1) (hashInsert_NEXT_ordered p h)

/-- With the positions before `n` entered, HEAD holds the newest of each digraph, and NEXT, for every position it has room for, the newest
before it of the same digraph. -/
structure ChainHolds (S : List Byte) (n : Nat) (r : M2EncRegs) : Prop where
  headOrdered : Ordered r.HEAD
  nextOrdered : Ordered r.NEXT
  head : ∀ k, tableGet r.HEAD k = newest S k n
  next : ∀ p, p < n → n ≤ p + Config.m2Chain → tableGet r.NEXT (p % Config.m2Chain) = newest S (digraphKey S p) p

theorem ChainHolds.hashInsert {n : Nat} (h : ChainHolds S n r) (hIn : n + 1 < S.length) : ChainHolds S (n + 1) (hashInsert S n r) := by
  rw [hashInsert_inside hIn]
  refine ⟨h.headOrdered.tableSet _, h.nextOrdered.tableSet _, fun k => ?_, fun p hp hRoom => ?_⟩
  · rw [tableGet_tableSet _ h.headOrdered, h.head]
    rfl
  · rw [tableGet_tableSet _ h.nextOrdered, h.head]
    obtain rfl | hBefore := Nat.eq_or_lt_of_le (Nat.le_of_lt_succ hp)
    · exact if_pos rfl
    · have hSlot : p % Config.m2Chain ≠ n % Config.m2Chain := by simp only [Config.m2Chain] at hRoom ⊢; omega
      rw [if_neg hSlot, h.next p hBefore (by omega)]

theorem chainHolds_hashInsertAll {n : Nat} (hHead : r.HEAD = []) (hNext : Ordered r.NEXT) (hIn : n < S.length) :
    ChainHolds S n (hashInsertAll S n 0 r) := by
  induction n with
  | zero =>
    exact ⟨hHead ▸ List.Pairwise.nil, hNext, fun k => congrArg (tableGet · k) hHead, fun p hp => absurd hp (Nat.not_lt_zero p)⟩
  | succ n ih =>
    rw [hashInsertAll_succ]
    exact (ih (Nat.lt_of_succ_lt hIn)).hashInsert hIn

end

section
variable {S : List Byte} {pos : Nat}

/-- Where the digraph differs there is no match of two bytes. -/
theorem matchLength_le_one {d : Nat} (hPos : pos ≤ S.length) (hd : d ≤ pos) (h : digraphKey S pos ≠ digraphKey S (pos - d)) :
    matchLength S pos d ≤ 1 := by
  obtain ⟨-, -, hEq⟩ := matchAt_matchLength hPos hd
  by_contra hLong
  have hFirst : S.getD pos 0 = S.getD (pos - d) 0 := hEq 0 (by omega)
  have hSecond := hEq 1 (by omega)
  rw [show pos + 1 - d = pos - d + 1 by omega] at hSecond
  exact h (by rw [digraphKey, digraphKey, hFirst, hSecond])

theorem init_le_firstBest (len : Nat → Nat) (init : Nat × Nat) (n : Nat) : init.1 ≤ (firstBest len init n).1 := by
  obtain h | ⟨d, -, -, h, hLong, -⟩ := firstBest_cases len init n
  · rw [h]
  · rw [h]
    exact hLong.le

/-- A candidate of no match of two bytes changes nothing. -/
theorem firstBest_skip {len : Nat → Nat} {d n : Nat} (h : len (n + 1) ≤ 1) :
    firstBest len (1, d) (n + 1) = firstBest len (1, d) n := by
  rw [firstBest_succ, if_neg (not_lt.mpr (h.trans (init_le_firstBest len (1, d) n)))]

theorem chainWalk_evicted {next : List (Nat × Nat)} {o : Option Nat} (h : ∀ p, o = some p → p < pos - Config.m2Window) (fuel : Nat)
    (best : Nat × Nat) : chainWalk S pos next fuel o best = best := by
  cases fuel with
  | zero => rfl
  | succ fuel =>
    cases o with
    | none => rfl
    | some p => exact if_pos (h p rfl)

theorem chainWalk_inside {next : List (Nat × Nat)} {p : Nat} (h : pos - Config.m2Window ≤ p) (fuel : Nat) (best : Nat × Nat) :
    chainWalk S pos next (fuel + 1) (some p) best = chainWalk S pos next fuel (tableGet next (p % Config.m2Chain))
      (if best.1 < matchLength S pos (pos - p) then (matchLength S pos (pos - p), pos - p) else best) :=
  if_neg (not_lt.mpr h)

/-- The walk from the newest position before `n`, in the window, is the rest of the search: the candidates from `n` on are done. -/
theorem chainWalk_eq {r : M2EncRegs} (hChain : ChainHolds S pos r) (hPos : pos ≤ S.length) {n fuel : Nat}
    (hLow : pos - Config.m2Window ≤ n) (hIn : n ≤ pos) (hFuel : n ≤ pos - Config.m2Window + fuel) :
    chainWalk S pos r.NEXT fuel (newest S (digraphKey S pos) n) (firstBest (matchLength S pos) (1, 0) (pos - n)) = longestMatch S pos := by
  induction n, hLow using Nat.le_induction generalizing fuel with
  | base => rw [chainWalk_evicted fun p hp => newest_lt hp, longestMatch_eq, Nat.sub_sub_eq_min]
  | succ n hLow ih =>
    have hDone : pos - n = pos - (n + 1) + 1 := by omega
    rw [newest]
    split_ifs with hKey
    · obtain ⟨fuel, rfl⟩ : ∃ f, fuel = f + 1 := Nat.exists_eq_succ_of_ne_zero (by omega)
      have hRoom : pos ≤ n + Config.m2Chain := by simp only [Config.m2Window, Config.m2Chain] at hLow ⊢; omega
      rw [chainWalk_inside hLow, hChain.next n hIn hRoom, ← hKey,
        ← ih (fuel := fuel) (Nat.le_of_succ_le hIn) (by omega), hDone, firstBest_succ]
    · have hShort := matchLength_le_one hPos (Nat.sub_le pos n) (by rwa [Nat.sub_sub_self (Nat.le_of_succ_le hIn)])
      rw [← ih (Nat.le_of_succ_le hIn) (Nat.le_of_succ_le hFuel), hDone, firstBest_skip (hDone ▸ hShort)]

/-- At the last byte of the chunk, and past it, there is no match of two bytes. -/
theorem longestMatch_at_end (hPos : pos ≤ S.length) (h : ¬ pos + 1 < S.length) : longestMatch S pos = (1, 0) := by
  obtain hNone | ⟨d, n, -, -, -, hLong, -, hEnd, -⟩ := longestMatch_cases hPos
  · exact hNone
  · omega

theorem chainMatch_eq {r : M2EncRegs} (hPos : pos ≤ S.length) (hChain : pos < S.length → ChainHolds S pos r) :
    chainMatch S pos r = longestMatch S pos := by
  rw [chainMatch]
  split
  next hInside =>
    have h := hChain (Nat.lt_of_succ_lt hInside)
    have hFuel : pos ≤ pos - Config.m2Window + Config.m2Chain := by simp only [Config.m2Window, Config.m2Chain]; omega
    have hWalk := chainWalk_eq h hPos (Nat.sub_le pos _) le_rfl hFuel
    rwa [Nat.sub_self, ← h.head] at hWalk
  next hEnd => exact (longestMatch_at_end hPos hEnd).symm

end

/-! ## A turn of the scan (R302) -/

/-- The candidates and the tables: what the bit writer leaves alone in the encoder's registers, `POS` aside. -/
def finder (r : M2EncRegs) : Nat × Nat × Nat × List (Nat × Nat) × List (Nat × Nat) := (r.RLEN, r.BL, r.BD, r.HEAD, r.NEXT)

theorem finder_eq_iff {r t : M2EncRegs} :
    finder r = finder t ↔ r.RLEN = t.RLEN ∧ r.BL = t.BL ∧ r.BD = t.BD ∧ r.HEAD = t.HEAD ∧ r.NEXT = t.NEXT := by
  simp [finder]

theorem finder_putItem (r : M2EncRegs) (x : Item) : finder (putItem r x) = finder r := by
  cases x with
  | flag b =>
    rw [putItem, putFlag]
    split <;> rfl
  | byte v => rfl

theorem finder_putItems (xs : List Item) (r : M2EncRegs) : finder (putItems xs r) = finder r := by
  induction xs generalizing r with
  | nil => rfl
  | cons x xs ih => exact (ih (putItem r x)).trans (finder_putItem r x)

/-- Entering positions into equal tables gives equal tables. -/
theorem hashInsertAll_tables {r t : M2EncRegs} (hHead : r.HEAD = t.HEAD) (hNext : r.NEXT = t.NEXT) (S : List Byte) (n p : Nat) :
    (hashInsertAll S n p r).HEAD = (hashInsertAll S n p t).HEAD ∧ (hashInsertAll S n p r).NEXT = (hashInsertAll S n p t).NEXT := by
  have hSame : r = withTables r t := by rw [withTables, ← hHead, ← hNext]
  rw [hSame, hashInsertAll_withTables]
  exact ⟨rfl, rfl⟩

/-- The registers with the candidates at `POS`. -/
def found (S : List Byte) (r : M2EncRegs) : M2EncRegs :=
  { r with RLEN := runLength S r.POS, BL := (longestMatch S r.POS).1, BD := (longestMatch S r.POS).2 }

theorem m2ScanTurn_eq (S : List Byte) (r : M2EncRegs) : m2ScanTurn S r =
    { hashInsertAll S (chosenToken S r.POS).2 r.POS (putItems (chosenToken S r.POS).1 (found S r)) with
      POS := r.POS + (chosenToken S r.POS).2 } := rfl

/-- A turn keeps the candidates, and enters the positions of its token into the tables. -/
theorem finder_m2ScanTurn (S : List Byte) (r : M2EncRegs) :
    finder (m2ScanTurn S r) = finder (withTables (found S r) (hashInsertAll S (chosenToken S r.POS).2 r.POS r)) := by
  obtain ⟨hRlen, hBl, hBd, hHead, hNext⟩ := finder_eq_iff.mp (finder_putItems (chosenToken S r.POS).1 (found S r))
  have hTables := hashInsertAll_tables (t := r) hHead hNext S (chosenToken S r.POS).2 r.POS
  rw [m2ScanTurn_eq, hashInsertAll_frame]
  exact finder_eq_iff.mpr ⟨hRlen, hBl, hBd, hTables⟩

/-- Settles O48: the chain leads through the positions of the window with the digraph at `pos`, the nearest first, and the tables are those
of the positions before `POS` after every turn. -/
theorem hashChainFindsLongestMatch : Obligations.HashChainFindsLongestMatch := by
  refine ⟨fun S pos r hHead hNext hPos => ?_, fun S e r t hTurn hHead hNext => ?_⟩
  · exact ⟨chainMatch_eq hPos (chainHolds_hashInsertAll hHead hNext), hashInsertAll_NEXT_ordered pos 0 hNext⟩
  · obtain ⟨-, -, -, hTurnHead, hTurnNext⟩ := finder_eq_iff.mp (finder_m2ScanTurn S r)
    obtain ⟨hAllHead, hAllNext⟩ := hashInsertAll_tables hHead hNext S (chosenToken S r.POS).2 r.POS
    rw [hTurn, m2ScanTurn_POS, hashInsertAll_add, Nat.zero_add]
    exact ⟨hTurnHead.trans hAllHead, hTurnNext.trans hAllNext⟩

/-! ## The token (R306 to R310) -/

theorem flagBits_mod (k j v : Nat) (h : j ≤ k) : flagBits j (v % 2 ^ k) = flagBits j v := by
  induction j with
  | zero => rfl
  | succ j ih =>
    rw [flagBits, flagBits, ih (Nat.le_of_succ_le h), Nat.testBit_mod_two_pow, decide_eq_true (Nat.lt_of_succ_le h), Bool.true_and]

/-- A field spells the low bits of its number. -/
theorem flagBits_ofNat (k v : Nat) : flagBits k (BitVec.ofNat k v).toNat = flagBits k v := flagBits_mod k k v le_rfl

/-- The number without its low byte. -/
theorem testBit_div_256 (v i : Nat) : (v / 256).testBit i = v.testBit (i + 8) := Nat.testBit_div_two_pow (n := 8) v i

theorem ofNat_mod_256 (v : Nat) : BitVec.ofNat 8 (v % 256) = BitVec.ofNat 8 v := BitVec.eq_of_toNat_eq (by simp)

theorem rptItems_short {c : Byte} {k : Nat} (h : k - 14 < 16) : rptItems c k =
    [.flag true, .flag true, .flag false, .flag false, .flag false, .flag false, .flag false, .byte 1, .flag false,
      .flag ((k - 14).testBit 3), .flag ((k - 14).testBit 2), .flag ((k - 14).testBit 1), .flag ((k - 14).testBit 0), .byte c] := by
  rw [rptItems, if_pos h, encode, flagBits_ofNat]
  rfl

theorem rptItems_long {c : Byte} {k : Nat} (h : 16 ≤ k - 14) : rptItems c k =
    [.flag true, .flag true, .flag false, .flag false, .flag false, .flag false, .flag false, .byte 1, .flag true,
      .flag ((k - 14).testBit 11), .flag ((k - 14).testBit 10), .flag ((k - 14).testBit 9), .flag ((k - 14).testBit 8),
      .byte (BitVec.ofNat 8 (k - 14)), .byte c] := by
  rw [rptItems, if_neg (not_lt.mpr h), encode, flagBits_ofNat, ofNat_mod_256]
  simp only [flagBits, testBit_div_256]
  rfl

theorem refItems_short {d : Nat} (n : Nat) (h : d ≤ 255) :
    refItems d n = [.flag true, .flag false, .byte (BitVec.ofNat 8 d)] ++ encode (lengthCode n) := by
  rw [refItems, if_pos h, encode]

theorem refItems_long {d : Nat} (n : Nat) (h : 255 < d) : refItems d n =
    [.flag true, .flag true, .flag (d.testBit 12), .flag (d.testBit 11), .flag (d.testBit 10), .flag (d.testBit 9), .flag (d.testBit 8),
      .byte (BitVec.ofNat 8 d)] ++ encode (lengthCode n) := by
  rw [refItems, if_neg (not_le.mpr h), encode, flagBits_ofNat, ofNat_mod_256]
  simp only [flagBits, testBit_div_256]
  rfl

section
variable (S : List Byte) (pos : Nat) {rlen bl : Nat} (bd : Nat)

theorem chooseToken_run (hLong : 14 ≤ rlen) (hBetter : bl < rlen) :
    chooseToken S pos rlen bl bd = (rptItems (S.getD pos 0) rlen, rlen) := if_pos ⟨hLong, hBetter⟩

theorem chooseToken_no_run (h : rlen < 14 ∨ rlen ≤ bl) :
    chooseToken S pos rlen bl bd = if 2 ≤ bl then (refItems bd bl, bl) else (encode (.m2Lit (S.getD pos 0)), 1) :=
  if_neg (by simp only [Config.m2RunMin]; omega)

theorem chooseToken_match (h : rlen < 14 ∨ rlen ≤ bl) (hLong : 2 ≤ bl) : chooseToken S pos rlen bl bd = (refItems bd bl, bl) :=
  (chooseToken_no_run S pos bd h).trans (if_pos hLong)

theorem chooseToken_literal (h : rlen < 14 ∨ rlen ≤ bl) (hShort : bl < 2) :
    chooseToken S pos rlen bl bd = ([.flag false, .byte (S.getD pos 0)], 1) :=
  (chooseToken_no_run S pos bd h).trans (if_neg (not_le.mpr hShort))

end

theorem m2ScanStep_of_inside {s : State} (h : s.m2e.POS < (m2Chunk s).length) :
    m2ScanStep s = { s with m2e := m2ScanTurn (m2Chunk s) s.m2e } := if_pos h

/-- Settles O49: the five choices, what a turn keeps of the finder and of the writer, and the step at the scan. -/
theorem tokenChoiceRule : Obligations.TokenChoiceRule := by
  refine ⟨fun S pos rlen bl bd => ⟨fun hLong hBetter hShort => ?_, fun hLong hBetter hFar => ?_, fun h hLong hNear => ?_,
    fun h hLong hFar => ?_, chooseToken_literal S pos bd⟩, fun S r t token covered hTurn hToken => ?_, fun s hs hp hInside => ?_⟩
  · rw [chooseToken_run S pos bd hLong hBetter, rptItems_short hShort]
  · rw [chooseToken_run S pos bd hLong hBetter, rptItems_long hFar]
  · rw [chooseToken_match S pos bd h hLong, refItems_short bl hNear]
  · rw [chooseToken_match S pos bd h hLong, refItems_long bl hFar]
  · have hFinder := finder_m2ScanTurn S r
    have hWriter := writer_m2ScanTurn S r
    have hPos := m2ScanTurn_POS S r
    rw [show chosenToken S r.POS = (token, covered) from hToken, ← hTurn] at hFinder hWriter hPos
    obtain ⟨hRlen, hBl, hBd, hTables⟩ := finder_eq_iff.mp hFinder
    obtain ⟨hz, hGpos, hGcap, hGn⟩ := writer_eq_iff.mp hWriter
    exact ⟨hRlen, hBl, hBd, hPos, hz, hGpos, hGcap, hGn, hTables⟩
  · rw [step_m2Scan hs hp, m2ScanStep_of_inside hInside]

end Sys2Proof.Mode2Encode
end

section
/-! The family 60_exceptions: a bad command ends in `BadCommand`, and where the invariant holds malformed input ends in an error state and
never in a fault of the model. -/

namespace Sys2Proof.Exceptions

open Sys2Proof.Machine Sys2Proof.Safety Sys2Proof.Laws Sys2Proof.Scope Sys2Proof.Reading Sys2Proof.Invariants Sys2Proof.Registers
  Sys2Proof.Memory Sys2Proof.Framing Sys2Proof.Mode3Decode

/-! ## Bad commands (R359) -/

/-- The commands with no meaning: the reserved one, and ENCODE with a mode that has no encoder. -/
def BadCommand (s : State) : Prop := s.CMD = .reserved ∨ (s.CMD = .encode ∧ s.MODE ≠ 2 ∧ s.MODE ≠ 3)

theorem step_dispatch {s : State} (hs : s.turns = []) (hp : s.phase = .dispatch) : step s = .next (dispatchCommand s) := by
  rw [step_of_no_turns hs, engineStep, hp]

theorem dispatchCommand_of_bad {s : State} (h : BadCommand s) : dispatchCommand s = raise .badCommand s := by
  unfold dispatchCommand
  obtain hCmd | ⟨hCmd, h2, h3⟩ := h
  · rw [hCmd]
  · rw [hCmd]
    exact (if_neg h3).trans (if_neg h2)

theorem step_of_bad_command {s : State} (hs : s.turns = []) (hp : s.phase = .dispatch) (h : BadCommand s) :
    step s = .next (raise .badCommand s) := by rw [step_dispatch hs hp, dispatchCommand_of_bad h]

/-- Settles O14: the dispatch raises the error, and raising it neither reads nor writes IN. -/
theorem badCommandsEndInError : Obligations.BadCommandsEndInError := fun s hs hp h =>
  ⟨raise .badCommand s, step_of_bad_command hs hp h, rfl, rfl, rfl, rfl,
    fun m => step_of_bad_command (s := { s with IN := m }) hs hp h⟩

/-! ## Outcomes that are no fault -/

/-- The step does not stop the model. -/
def NoFault (o : Outcome) : Prop := ∀ f, o ≠ .fault f

theorem noFault_next (t : State) : NoFault (.next t) := nofun

theorem noFault_refused (e : Refusal) : NoFault (.refused e) := nofun

theorem NoFault.ite {p : Prop} [Decidable p] {o u : Outcome} (ho : NoFault o) (hu : NoFault u) : NoFault (if p then o else u) := by
  split
  · exact ho
  · exact hu

/-! ## Instructions -/

/-- The last output byte of the segment is in OUT, and with it every byte a reference may copy (41_mode3_decode R205). -/
def OutReaches (s : State) : Prop := s.m3d.BASE + s.m3d.OP ≤ s.OUT.len

theorem exec_m3Ref_noFault (a b : Byte) (c : Option Byte) {s : State} (hOut : OutReaches s) : NoFault (exec (.m3Ref a b c) s) := by
  by_cases hFar : s.m3d.OP < b.toNat + 1
  · rw [exec_m3Ref_of_far c hFar]
    exact noFault_next _
  cases c with
  | none => rw [exec_m3Ref_none (not_lt.mp hFar) hOut]; exact noFault_next _
  | some v => rw [exec_m3Ref_some (not_lt.mp hFar) hOut]; exact noFault_next _

theorem exec_m2ChunkStart_noFault (method : Byte) (g : Option Byte) (s : State) : NoFault (exec (.m2ChunkStart method g) s) := by
  refine .ite (noFault_next _) ?_
  cases g with
  | none => exact noFault_next _
  | some v => exact noFault_next _

/-- Only a mode-3 token can fault, and only where OUT ends before the segment's output does. -/
theorem exec_noFault {i : Instr} {s : State} (hOut : i.ctx = .m3Token → OutReaches s) : NoFault (exec i s) := by
  cases i with
  | m3Ref a b c => exact exec_m3Ref_noFault a b c (hOut rfl)
  | m2ChunkStart method g => exact exec_m2ChunkStart_noFault method g s
  | m3Lit n data => exact .ite (noFault_next _) (noFault_next _)
  | m3ContainerHeader flag nb cs maxrec us => exact .ite (noFault_next _) (noFault_next _)
  | m3BlockRecord bs ubs bt payload =>
    exact .ite (noFault_next _) (.ite (noFault_next _) (.ite (noFault_next _) (noFault_next _)))
  | m2ContainerHeader cs us nb sub =>
    exact .ite (noFault_next _) (.ite (noFault_next _) (.ite (noFault_next _) (noFault_next _)))
  | m2ChunkRecord bs chunk cont => exact .ite (noFault_next _) (.ite (noFault_next _) (noFault_next _))
  | _ => exact noFault_next _

/-! ## Reading bytes (30_encoding R100 to R106) -/

/-- Given bytes, the reader `f` reads an instruction or asks for one byte more: it has no use for a flag bit. -/
def ReadsBytes (f : List Item → Take Instr) : Prop :=
  ∀ bs : List Byte, (∃ i r, f (byteItems bs) = .ok i r) ∨ f (byteItems bs) = .needByte

theorem readsBytes_ok (mk : List Item → Instr) (rest : List Item → List Item) : ReadsBytes fun xs => .ok (mk xs) (rest xs) :=
  fun _ => .inl ⟨_, _, rfl⟩

theorem ReadsBytes.ite {p : Prop} [Decidable p] {f g : List Item → Take Instr} (hf : ReadsBytes f) (hg : ReadsBytes g) :
    ReadsBytes fun xs => if p then f xs else g xs := by
  by_cases h : p
  · simpa [h] using hf
  · simpa [h] using hg

theorem ReadsBytes.byte {g : Byte → List Item → Take Instr} (hg : ∀ v, ReadsBytes (g v)) :
    ReadsBytes fun xs => (takeByte xs).bind g
  | [] => .inr rfl
  | v :: bs => hg v bs

theorem ReadsBytes.u16 {g : BitVec 16 → List Item → Take Instr} (hg : ∀ v, ReadsBytes (g v)) :
    ReadsBytes fun xs => (takeU16 xs).bind g := by
  intro bs
  simp only [takeU16_byteItems]
  split
  · exact hg _ _
  · exact .inr rfl

theorem ReadsBytes.u32 {g : BitVec 32 → List Item → Take Instr} (hg : ∀ v, ReadsBytes (g v)) :
    ReadsBytes fun xs => (takeU32 xs).bind g := by
  intro bs
  simp only [takeU32_byteItems]
  split
  · exact hg _ _
  · exact .inr rfl

theorem decodeContainer_readsBytes : ReadsBytes (decode .container) :=
  .u32 fun _ => .ite (.u32 fun _ => .u32 fun _ => .u32 fun _ => .u32 fun _ => readsBytes_ok _ _)
    (.u32 fun _ => .u32 fun _ => readsBytes_ok _ _)

/-- The rows that are not bit-packed are read from bytes alone. -/
theorem decode_readsBytes {c : Ctx} (h : bitPacked c = false) : ReadsBytes (decode c) := by
  cases c with
  | container => exact decodeContainer_readsBytes
  | m3Record => exact .u32 fun _ => .u32 fun _ => .u32 fun _ => readsBytes_ok _ _
  | m3Token => exact .byte fun _ => .byte fun _ => .ite (readsBytes_ok _ _) (readsBytes_ok _ _)
  | m2Chunk => exact .u16 fun _ => readsBytes_ok _ _
  | m2Start => exact .byte fun _ => readsBytes_ok _ _
  | m2FlagWord => exact .u16 fun _ => readsBytes_ok _ _
  | m2Token => cases h
  | m2Length => cases h

/-! ## Steps that fetch -/

/-- A fetch of bytes executes an instruction of its place, or raises the error of a short read. -/
theorem fetch_noFault (e : ErrorKind) {c : Ctx} (hBytes : bitPacked c = false) (bs : List Byte) {s : State}
    (hOut : c = .m3Token → OutReaches s) : NoFault (runFetched e (decode c (byteItems bs)) s) := by
  obtain ⟨i, r, hRead⟩ | hShort := decode_readsBytes hBytes bs
  · obtain ⟨rfl, -⟩ := decode_readAt c _ i r hRead
    rw [runFetched_ok hRead]
    exact exec_noFault hOut
  · rw [hShort]
    exact noFault_next _

theorem m3TokenStep_noFault {s : State} (hOut : OutReaches s) : NoFault (m3TokenStep s) :=
  .ite (noFault_next _) (fetch_noFault _ rfl _ fun _ => hOut)

theorem readFlag_noFault (s : State) : NoFault (readFlag s) := .ite (fetch_noFault _ rfl _ nofun) (noFault_next _)

theorem readByte_noFault (s : State) : NoFault (readByte s) := by
  unfold readByte
  split
  · exact noFault_next _
  · exact noFault_next _

/-- Items that begin a token are of the kind the token's reader asks for. -/
theorem decode_ne_wrongKind {c : Ctx} {tok : List Item} (h : beginsToken c tok = true) : decode c tok ≠ .wrongKind := by
  intro hd
  rw [beginsToken, hd] at h
  cases h

theorem m2ReadStep_noFault {c : Ctx} {s : State} (hc : c ≠ .m3Token) (h : beginsToken c s.m2d.tok = true) :
    NoFault (m2ReadStep c s) := by
  cases hRead : decode c s.m2d.tok with
  | ok i r =>
    obtain ⟨rfl, -⟩ := decode_readAt c _ i r hRead
    rw [m2ReadStep_ok hRead]
    exact exec_noFault fun hi => absurd hi hc
  | needFlag => rw [m2ReadStep, hRead]; exact readFlag_noFault s
  | needByte => rw [m2ReadStep, hRead]; exact readByte_noFault s
  | wrongKind => exact absurd hRead (decode_ne_wrongKind h)

/-! ## Every step (R350, R363) -/

/-- What the phase asks for shuts out both faults of the model (log 17): OUT reaches the segment's output, and the items held begin a
token. -/
theorem engineStep_noFault {s : State} (h : PlaceInv s.phase s) : NoFault (engineStep s) := by
  unfold engineStep
  cases hp : s.phase with
  | header => exact fetch_noFault _ rfl _ nofun
  | m3Record => exact fetch_noFault _ rfl _ nofun
  | m3Token => rw [hp] at h; exact m3TokenStep_noFault h.out_end.le
  | m2Chunk => exact fetch_noFault _ rfl _ nofun
  | m2Start => exact fetch_noFault _ rfl _ nofun
  | m2Token => rw [hp] at h; exact m2ReadStep_noFault (by decide) h.begins
  | m2Length => rw [hp] at h; exact m2ReadStep_noFault (by decide) h.begins
  | _ => exact noFault_next _

theorem whenNotBusy_noFault (s t : State) : NoFault (whenNotBusy s t) := .ite (noFault_refused _) (noFault_next _)

/-- The host's actions are carried out or refused. -/
theorem hostAct_noFault (a : HostAction) (s : State) : NoFault (hostAct a s) := by
  cases a with
  | writeIn bytes => exact whenNotBusy_noFault s _
  | writeSp v => exact whenNotBusy_noFault s _
  | writeMode v => exact whenNotBusy_noFault s _
  | writeCmd c => exact noFault_next _
  | powerOn => exact noFault_next _

/-- Settles O42: the engine's turns by what its phase asks for, the host's from any state. -/
theorem noFaultUnderInvariant : Obligations.NoFaultUnderInvariant := by
  intro s hInv
  obtain ⟨-, -, hPlace⟩ := (inv_iff s).mp hInv
  unfold step
  split
  next => exact engineStep_noFault hPlace
  next r _ => exact engineStep_noFault (s := withTurns r s) ((placeInv_iff _).mpr ((placeInv_iff s).mp hPlace))
  next a r _ => exact hostAct_noFault a (withTurns r s)

end Sys2Proof.Exceptions
end

section
/-! The family 70_reset, the host's writes: a write of CMD while BUSY is ignored, and a write of IN, SP or MODE is carried out only when the
engine is not BUSY. -/

namespace Sys2Proof.HostWrites

open Sys2Proof.Machine Sys2Proof.Scope Sys2Proof.Registers

/-! ## A write of CMD while BUSY (70_reset R404) -/

theorem writeCmd_of_busy {s : State} (h : s.STATE = .busy) (c : Command) : writeCmd c s = s := if_pos h

/-- Settles O11: the host's turn is `writeCmd`, which leaves a BUSY engine as it is. -/
theorem busyIgnoresCommandWrite : Obligations.BusyIgnoresCommandWrite := by
  intro s c r h hBusy
  calc step s = .next (writeCmd c (withTurns r s)) := step_of_host_turn h
    _ = .next (withTurns r s) := congrArg _ (writeCmd_of_busy (s := withTurns r s) hBusy c)

/-! ## Writes of data (70_reset R392, R403) -/

theorem whenNotBusy_of_busy {s : State} (h : s.STATE = .busy) (t : State) : whenNotBusy s t = .refused .hostWriteWhileBusy :=
  if_pos h

theorem whenNotBusy_of_not_busy {s : State} (h : s.STATE ≠ .busy) (t : State) : whenNotBusy s t = .next t := if_neg h

/-- Besides the write of CMD and the reset every action of the host is a write of data, which a BUSY engine has no move for (log 15). -/
theorem hostAct_refused_of_busy {a : HostAction} {s : State} (hBusy : s.STATE = .busy) (hCmd : ∀ c, a ≠ .writeCmd c)
    (hReset : a ≠ .powerOn) : hostAct a s = .refused .hostWriteWhileBusy := by
  cases a with
  | writeIn bytes => exact whenNotBusy_of_busy hBusy _
  | writeSp v => exact whenNotBusy_of_busy hBusy _
  | writeMode v => exact whenNotBusy_of_busy hBusy _
  | writeCmd c => exact absurd rfl (hCmd c)
  | powerOn => exact absurd rfl hReset

/-- Settles O13: the host's turn is one write guarded by `whenNotBusy`, and IN then holds exactly the bytes written. -/
theorem hostDataWrites : Obligations.HostDataWrites := by
  refine fun s r => ⟨fun bs h hFree => ?_, fun v h hFree => ?_, fun v h hFree => ?_, fun a h hBusy hCmd hReset => ?_⟩
  · have hStep : step s = .next { withTurns r s with IN := Space.ofList bs } :=
      (step_of_host_turn h).trans (whenNotBusy_of_not_busy hFree _)
    exact ⟨_, hStep, toList_ofList bs, rfl⟩
  · exact (step_of_host_turn h).trans (whenNotBusy_of_not_busy hFree _)
  · exact (step_of_host_turn h).trans (whenNotBusy_of_not_busy hFree _)
  · exact (step_of_host_turn h).trans (hostAct_refused_of_busy hBusy hCmd hReset)

end Sys2Proof.HostWrites
end
